-- ==== Sys2Proof/Word.lean ====
section
/-! DEFINITION. The words of the block: the 64-bit word and the 4-bit index (R14), a bank of 16 words (R40), and a
command as it crosses the command port (R68). Every value is an unsigned bit vector; bit 0 is the least significant
bit (R10, R11). -/

namespace Sys2Proof

/-- A state word, staging word, output or data word: 64 bits, unsigned (R7 `W`, R14). -/
abbrev Word := BitVec 64

/-- A word index, 0..15, unscaled (R7 `POSW`, R14, R43): all 16 values name a word. -/
abbrev Index := BitVec 4

/-- One word-indexed space of the block: 16 words of 64 bits (R7 `NWORDS`, R40). -/
abbrev Bank := Vector Word 16

/-- What one transaction carries on the command port: `cmd_code[7:0]` and `cmd_data[63:0]`, in parallel (R68, R74). -/
structure Command where
  code : BitVec 8
  data : Word
  deriving DecidableEq, Repr

end Sys2Proof
end

