-- ==== Sys2Proof/Syntax.lean ====
section
/-! DEFINITION. The six commands of the block, one constructor for each row of spec/opcode_table.json (R68). -/

namespace Sys2Proof

/-- A legal command with its operands (R68, R69). Only SEEDW carries the data word: for every other command the block
ignores `cmd_data`. A reserved code is no command; the decoder rejects it by name (R70, R73). -/
inductive Instr where
  /-- NOP, code 0x00 (R120). -/
  | nop
  /-- NEXT, code 0x10 (R100): draw one 64-bit value and advance the state. -/
  | next
  /-- GETW i, codes 0x20..0x2F (R121): read state word i. -/
  | getw (i : Index)
  /-- SEEDW i, v, codes 0x30..0x3F (R122): stage seed word i. -/
  | seedw (i : Index) (v : Word)
  /-- COMMIT, code 0x40 (R123): copy the staged seed into the state, reset the position. -/
  | commit
  /-- STATUS, code 0x50 (R124): read the status word. -/
  | status
  deriving DecidableEq, Repr

end Sys2Proof
end

