-- ==== Sys2Proof/Decode.lean ====
section
/-! DEFINITION. The decoder of R73, total on all 256 codes, rejecting a reserved code by name (R70); after it the
encoder, written from the same opcode map (R68); and the host's numbering of an instruction's bits. -/

namespace Sys2Proof

/-- Why the decoder rejects a command. -/
inductive Reject where
  /-- The code is one of the 220 reserved codes of R70. The block answers it with ERR_ILLEGAL (R161): the machine goes
  on, so the rejection is neither a fault nor a refusal (safe: it is the spec's own response). -/
  | reservedCode (code : BitVec 8)
  deriving DecidableEq, Repr

/-- `cmd_code[7:4]`, the operation (R68). -/
def opField (code : BitVec 8) : BitVec 4 := code.extractLsb' 4 4

/-- `cmd_code[3:0]`, the word index (R68, R69). -/
def idxField (code : BitVec 8) : Index := code.extractLsb' 0 4

/-- The decoder, line by line as R73 gives it. The code alone says which command it is; the data word is only SEEDW's
operand, taken whole (R69). -/
def decode (c : Command) : Except Reject Instr :=
  if opField c.code = 0x0 ∧ idxField c.code = 0x0 then .ok .nop
  else if opField c.code = 0x1 ∧ idxField c.code = 0x0 then .ok .next
  else if opField c.code = 0x2 then .ok (.getw (idxField c.code))
  else if opField c.code = 0x3 then .ok (.seedw (idxField c.code) c.data)
  else if opField c.code = 0x4 ∧ idxField c.code = 0x0 then .ok .commit
  else if opField c.code = 0x5 ∧ idxField c.code = 0x0 then .ok .status
  else .error (.reservedCode c.code)

/-- A command code from its two fields (R68): the operation in the upper nibble, the index in the lower. -/
def mkCode (op : BitVec 4) (idx : Index) : BitVec 8 := op ++ idx

/-- The encoder (R68). Where the block ignores `cmd_data`, it is driven 0, as R69 asks of a host. -/
def encode : Instr → Command
  | .nop => ⟨mkCode 0x0 0x0, 0⟩
  | .next => ⟨mkCode 0x1 0x0, 0⟩
  | .getw i => ⟨mkCode 0x2 i, 0⟩
  | .seedw i v => ⟨mkCode 0x3 i, v⟩
  | .commit => ⟨mkCode 0x4 0x0, 0⟩
  | .status => ⟨mkCode 0x5 0x0, 0⟩

/-- The command whose bits are `w`, numbered as the opcode table numbers them (assumption 9): bits 7..0 are
`cmd_code`, bits 71..8 are `cmd_data`; every bit from `nbits` on is 0. -/
def commandOfBits (nbits w : Nat) : Command :=
  let w := w % (1 <<< nbits)
  ⟨BitVec.ofNat 8 w, BitVec.ofNat 64 (w >>> 8)⟩

/-- The instruction the decoder reads from the bits `w`; none where it rejects them. -/
def decodeTableWord (nbits w : Nat) : Option Instr :=
  match decode (commandOfBits nbits w) with
  | .ok i => some i
  | .error _ => none

end Sys2Proof
end

