-- ==== Sys2Proof/Config.lean ====
section
/-! DEFINITION. What the implementation decides and what the spec leaves unspecified: opaque constants, so that no
proof can see their values. The fixed parameters of R7 are no configuration and stand with the bit engine. -/

namespace Sys2Proof

/-- `RSP_LATENCY - 1`, an open parameter of the implementation (R9, 92 D5, 93 U7; assumption 6). -/
opaque Config.rspLatencyLessOne : Nat

/-- `RSP_LATENCY` (R9): the number of clock cycles from a command's acceptance to the first cycle its response is
valid. "It is an integer of at least 1", which this form makes true by construction. -/
def Config.rspLatency : Nat := Config.rspLatencyLessOne + 1

/-- The status code left in `rsp_st` by the n-th reset edge: unspecified (R31, R180, 93 U3; assumption 5). -/
opaque Config.freeRspSt : Nat → BitVec 2

/-- The data word left in `rsp_dat` by the n-th reset edge: unspecified (R31, R180, 93 U3; assumption 5). -/
opaque Config.freeRspDat : Nat → Word

end Sys2Proof
end

