-- ==== Sys2Proof/Machine/State.lean ====
section
/-! DEFINITION. The state of the block (10_state.md), as plain data, and the state right after reset (R31). -/

namespace Sys2Proof.Machine

/-- The four response statuses (R71); their 2-bit codes are `Status.code`. -/
inductive Status where
  /-- The command was performed. -/
  | ok
  /-- The command code is reserved (R70). -/
  | errIllegal
  /-- NEXT or GETW while `seeded = 0`. -/
  | errUnseeded
  /-- COMMIT while `mask != 0xFFFF`. -/
  | errSeedIncomplete
  deriving DecidableEq, Repr

/-- A response as the host takes it: `rsp_status` and `rsp_data` (R60). -/
structure Response where
  st : BitVec 2
  dat : Word
  deriving DecidableEq, Repr

/-- One rising edge of `clk`, as seen from outside the block (R60, R61): the values of the input ports sampled there,
and `readyChoice`, the implementation's own choice of whether it could accept a command at this edge when R63 does not
forbid it (assumption 7). -/
structure Edge where
  rst : Bool
  cmdValid : Bool
  cmdCode : BitVec 8
  cmdData : Word
  rspReady : Bool
  readyChoice : Bool
  deriving DecidableEq, Repr

/-- The state of the block. The first eight fields are the spec's (R30); the last three are the model's own. -/
structure State where
  /-- The 16 state words `S[0..15]` (R20). -/
  S : Bank
  /-- The position cursor (R22). -/
  pos : Index
  /-- The state words hold a seed committed since the last reset (R23). -/
  seeded : Bool
  /-- The staging buffer `Stage[0..15]` (R24). -/
  Stage : Bank
  /-- The staged mask: bit i is 1 when `Stage[i]` is staged (R25). -/
  mask : BitVec 16
  /-- A response is waiting for the host (R26). -/
  rspPending : Bool
  /-- The response's status code (R26, R71). -/
  rspSt : BitVec 2
  /-- The response's data word (R26, R72). -/
  rspDat : Word
  /-- The model's own: the number of the current cycle after the pending command's acceptance edge, 1 for the cycle
  right after it; 0 while no response is pending (R64, R66; assumption 6). -/
  rspAge : Nat
  /-- The model's own: how many reset edges have drawn free values for `rsp_st` and `rsp_dat` (assumption 5). -/
  freeCount : Nat
  /-- The model's own: what the input ports will carry at the coming edges, the next edge first; after the last one
  the host is idle (assumption 8). -/
  edges : List Edge
  deriving DecidableEq, Repr

/-- The block has no fault: it "does not trap or halt" (R160, R164), so this type has no constructor and no meaning
can stop with one. -/
inductive Fault where
  deriving DecidableEq, Repr

/-- Why the model could give no meaning. -/
inductive Refusal where
  /-- Raised by an arm of `exec` for a command that has no meaning yet (safe: the run stops). No arm raises it: all six
  commands are modelled. -/
  | notModelled (mnemonic : String)
  deriving DecidableEq, Repr

/-- The block right after reset (R31, R180). `pos`, `seeded`, `mask` and `rspPending` are the spec's values; the
contents of `S`, `Stage`, `rspSt` and `rspDat` are unspecified there and 0 here (DESIGN CHOICE, assumptions 1, 2, 3),
and nothing the port shows depends on them. -/
def State.reset : State where
  S := Vector.replicate 16 0
  pos := 0
  seeded := false
  Stage := Vector.replicate 16 0
  mask := 0
  rspPending := false
  rspSt := 0
  rspDat := 0
  rspAge := 0
  freeCount := 0
  edges := []

end Sys2Proof.Machine
end

