-- ==== Sys2Proof/Machine/Operands.lean ====
section
/-! DEFINITION. The operand forms (R69): an index names a whole word of the state space or of the staging space
(R40, R41). Reads and writes of the two banks and of the position cursor, the primitives `S[i]`, `Stage[i]` and `pos`
of R12. -/

namespace Sys2Proof.Machine

/-- Word `i` of a bank. The index is unscaled and all its 16 values name a word (R43, R69). -/
def bankRead (b : Bank) (i : Index) : Word := b[i.toNat]'i.isLt

/-- A bank with word `i` replaced. -/
def bankWrite (b : Bank) (i : Index) (v : Word) : Bank := b.set i.toNat v i.isLt

/-- `S[i]` (R12). -/
def State.readS (s : State) (i : Index) : Word := bankRead s.S i

/-- `S[i] <- v` (R12). -/
def State.writeS (s : State) (i : Index) (v : Word) : State := { s with S := bankWrite s.S i v }

/-- All 16 words of `S` at once, the copy of COMMIT (R20, R44). -/
def State.loadS (s : State) (b : Bank) : State := { s with S := b }

/-- `Stage[i]` (R12). -/
def State.readStage (s : State) (i : Index) : Word := bankRead s.Stage i

/-- `Stage[i] <- v` (R12). -/
def State.writeStage (s : State) (i : Index) (v : Word) : State := { s with Stage := bankWrite s.Stage i v }

/-- `pos <- v` (R12). -/
def State.setPos (s : State) (p : Index) : State := { s with pos := p }

/-- `(p + 1) mod 16`: a 4-bit increment that wraps from 15 to 0 (R11). -/
def nextPos (p : Index) : Index := p + 1

end Sys2Proof.Machine
end

