-- ==== Sys2Proof/Machine/Flags.lean ====
section
/-! DEFINITION. The block's flag `seeded` (R23), the staged mask (R25), the status word that shows them (R27), the
codes of the response statuses (R71), and the values a state element holds, if any (R31). -/

namespace Sys2Proof.Machine

/-- `rsp_status[1:0]` of each status (R71). -/
def Status.code : Status → BitVec 2
  | .ok => 0b00
  | .errIllegal => 0b01
  | .errUnseeded => 0b10
  | .errSeedIncomplete => 0b11

/-- `seeded <- b` (R23). -/
def State.setSeeded (s : State) (b : Bool) : State := { s with seeded := b }

/-- `mask <- m` (R25). -/
def State.setMask (s : State) (m : BitVec 16) : State := { s with mask := m }

/-- `mask[i]` (R12). -/
def State.maskBit (s : State) (i : Index) : Bool := s.mask.getLsbD i.toNat

/-- The mask `m` with bit `i` set (R25: "SEEDW to index `i` sets `mask[i]`"). -/
def maskWith (m : BitVec 16) (i : Index) : BitVec 16 := m ||| (1#16 <<< i.toNat)

/-- `mask[i] <- 1`. -/
def State.setMaskBit (s : State) (i : Index) : State := s.setMask (maskWith s.mask i)

/-- All 16 staging words are staged: the test `mask == 0xFFFF` of COMMIT (R123). -/
def State.maskFull (s : State) : Bool := s.mask == 0xFFFF#16

/-- The status word (R27): `zext_64({mask[15:0], 0b00000000000, seeded, pos[3:0]})`. It has no storage of its own. -/
def State.statusWord (s : State) : Word :=
  (s.mask ++ 0#11 ++ BitVec.ofBool s.seeded ++ s.pos).setWidth 64

/-- The value state word `i` holds, if any: none while no seed is committed (R31, R121). -/
def State.heldWord (s : State) (i : Index) : Option Word := if s.seeded then some (s.readS i) else none

/-- The value staging word `i` holds for COMMIT, if any: none while its mask bit is 0 (R31, 93 U2). -/
def State.heldStage (s : State) (i : Index) : Option Word := if s.maskBit i then some (s.readStage i) else none

/-- The response waiting for the host, if any: `rsp_st` and `rsp_dat` mean nothing while `rsp_pending = 0` (R31). -/
def State.heldResponse (s : State) : Option Response := if s.rspPending then some ⟨s.rspSt, s.rspDat⟩ else none

end Sys2Proof.Machine
end

