-- ==== Sys2Proof/Machine/Ops.lean ====
section
/-! DEFINITION. The shared operations on the state: ending a command with a response (R12 `respond`, R64), raising an
error (R12 `raise`, R162), the response handshake (R65), the passing of a cycle (R64), and a reset edge (R180, R181).
Raising an error is the block's whole exception: it saves nothing, changes no mode and goes nowhere (R160, R164), so
there is no return from one. -/

namespace Sys2Proof.Machine

/-- `respond(st, d)` (R12, R64): the accepted command's response waits for the host. The acceptance edge ends here, so
the current cycle is the first after it. -/
def State.respond (s : State) (st : Status) (d : Word) : State :=
  { s with rspPending := true, rspSt := st.code, rspDat := d, rspAge := 1 }

/-- `raise E` (R12, R162): `respond(E, 0)`, with no change to any other state element. -/
def State.raise (s : State) (e : Status) : State := s.respond e 0

/-- The response handshake (R65): the edge "sets `rsp_pending <- 0`". -/
def State.takeResponse (s : State) : State := { s with rspPending := false, rspAge := 0 }

/-- An edge at which nothing happens: a pending response grows one cycle older (R64). -/
def State.passCycle (s : State) : State := if s.rspPending then { s with rspAge := s.rspAge + 1 } else s

/-- A rising edge with `rst = 1` (R180). A pending response is lost; `S` and `Stage` are not rewritten (R181,
assumption 4); `rsp_st` and `rsp_dat` are left with unspecified values (assumption 5). -/
def State.resetEdge (s : State) : State :=
  { s with
    pos := 0, seeded := false, mask := 0, rspPending := false, rspAge := 0
    rspSt := Config.freeRspSt s.freeCount, rspDat := Config.freeRspDat s.freeCount, freeCount := s.freeCount + 1 }

end Sys2Proof.Machine
end

