-- ==== Sys2Proof/Machine/BitEngine.lean ====
section
/-! DEFINITION. The bit engine (40_bit_engine.md): the mixing function, the output scrambler and NEXT. The shift
amounts and the multiplier are the fixed parameters A, B, C and MULT of R7. -/

namespace Sys2Proof.Machine

/-- The left shift applied to `s1` (R7 `A`). -/
def shiftA : Nat := 31

/-- The right shift applied to the updated `s1` (R7 `B`). -/
def shiftB : Nat := 11

/-- The right shift applied to `s0` (R7 `C`). -/
def shiftC : Nat := 30

/-- The multiplier of the output scrambler (R7 `MULT`). -/
def mult : Word := 1181783497276652981

/-- The two in-place updates of `s1` (R100 step 4): the second shift acts on the updated word (R101). -/
def mixS1 (s1 : Word) : Word :=
  let t := s1 ^^^ (s1 <<< shiftA)
  t ^^^ (t >>> shiftB)

/-- The update of `s0` (R100 step 4); the shift is logical (R108). -/
def mixS0 (s0 : Word) : Word := s0 ^^^ (s0 >>> shiftC)

/-- The mixing function, the "state_mixer" of the block's name (R101). -/
def mix (s0 s1 : Word) : Word := mixS0 s0 ^^^ mixS1 s1

/-- The output scrambler (R102): the product modulo 2^64. -/
def scramble (w : Word) : Word := w * mult

/-- NEXT (R100), the source's six steps in order. -/
def execNext (s : State) : Host.Outcome State Fault Refusal :=
  if s.seeded then
    let s0 := s.readS s.pos
    let s := s.setPos (nextPos s.pos)
    let s1 := s.readS s.pos
    let s := s.writeS s.pos (mix s0 s1)
    .next (s.respond .ok (scramble (s.readS s.pos)))
  else .next (s.raise .errUnseeded)

end Sys2Proof.Machine
end

