-- ==== Sys2Proof/Machine/StateAccess.lean ====
section
/-! DEFINITION. State access and seeding (41_state_access.md): NOP, GETW, SEEDW, COMMIT, STATUS. -/

namespace Sys2Proof.Machine

/-- NOP (R120): do nothing and respond. -/
def execNop (s : State) : Host.Outcome State Fault Refusal := .next (s.respond .ok 0)

/-- GETW i (R121): the raw word at index `i`, not rotated by `pos` (90_conflicts.md C1). -/
def execGetw (i : Index) (s : State) : Host.Outcome State Fault Refusal :=
  if s.seeded then .next (s.respond .ok (s.readS i)) else .next (s.raise .errUnseeded)

/-- SEEDW i, v (R122): stage seed word `i`, seeded or not; the last value wins. -/
def execSeedw (i : Index) (v : Word) (s : State) : Host.Outcome State Fault Refusal :=
  .next (((s.writeStage i v).setMaskBit i).respond .ok 0)

/-- COMMIT (R123): all 16 staged words become the state in one transition. An all-zero seed is accepted (R21). -/
def execCommit (s : State) : Host.Outcome State Fault Refusal :=
  if s.maskFull then
    .next (((((s.loadS s.Stage).setPos 0).setSeeded true).setMask 0).respond .ok 0)
  else .next (s.raise .errSeedIncomplete)

/-- STATUS (R124): the status word, in every state. -/
def execStatus (s : State) : Host.Outcome State Fault Refusal := .next (s.respond .ok s.statusWord)

end Sys2Proof.Machine
end

