-- ==== Sys2Proof/Machine/Dispatch.lean ====
section
/-! DEFINITION. One arm per command of the opcode table (R68), each one call of its meaning. -/

namespace Sys2Proof.Machine

def exec (i : Instr) (s : State) : Host.Outcome State Fault Refusal :=
  match i with
  | .nop => Sys2Proof.Machine.execNop s
  | .next => Sys2Proof.Machine.execNext s
  | .getw k => Sys2Proof.Machine.execGetw k s
  | .seedw k v => Sys2Proof.Machine.execSeedw k v s
  | .commit => Sys2Proof.Machine.execCommit s
  | .status => Sys2Proof.Machine.execStatus s

end Sys2Proof.Machine
end

