-- ==== Sys2Proof/Machine/Port.lean ====
section
/-! DEFINITION. The ports of the block (R60) and what one rising edge does (R61 to R66, R180, R181): accept a command,
take a response, reset, or let a cycle pass. -/

namespace Sys2Proof.Machine

/-- An edge at which the host is idle: no reset, no command, no response taken (assumption 8). That `cmd_ready` is not
held low there is the model's choice (DESIGN CHOICE, assumption 7); with no command offered it changes no state. -/
def idleEdge : Edge :=
  { rst := false, cmdValid := false, cmdCode := 0, cmdData := 0, rspReady := false, readyChoice := true }

/-- An edge at which the host offers `c` and the implementation does not hold `cmd_ready` low (DESIGN CHOICE,
assumptions 7 and 9). -/
def offerEdge (c : Command) : Edge :=
  { rst := false, cmdValid := true, cmdCode := c.code, cmdData := c.data, rspReady := false, readyChoice := true }

/-- The command on the command port. -/
def Edge.command (e : Edge) : Command := ⟨e.cmdCode, e.cmdData⟩

/-- `cmd_ready` (R63): 0 while `rst = 1` and while a response is pending; else the implementation's choice. -/
def cmdReady (e : Edge) (s : State) : Bool := !e.rst && !s.rspPending && e.readyChoice

/-- `rsp_valid` (R64, R180): 1 from the `RSP_LATENCY`-th cycle after acceptance until the handshake; 0 while `rst = 1`. -/
def rspValid (e : Edge) (s : State) : Bool := !e.rst && s.rspPending && decide (Config.rspLatency ≤ s.rspAge)

/-- `rsp_status` and `rsp_data` (R64): the response register while `rsp_valid = 1`, no meaning otherwise (93 U3). -/
def rspPort (e : Edge) (s : State) : Option Response := if rspValid e s then some ⟨s.rspSt, s.rspDat⟩ else none

/-- The output ports of R60. -/
structure Outputs where
  cmdReady : Bool
  rspValid : Bool
  rsp : Option Response
  deriving DecidableEq, Repr

/-- What the block drives in the cycle that ends with edge `e`. -/
def outputs (e : Edge) (s : State) : Outputs := ⟨cmdReady e s, rspValid e s, rspPort e s⟩

/-- A command is accepted at this edge (R62). -/
def accepts (e : Edge) (s : State) : Bool := !e.rst && e.cmdValid && cmdReady e s

/-- The response is taken at this edge (R65). -/
def takes (e : Edge) (s : State) : Bool := !e.rst && rspValid e s && e.rspReady

/-- The transition of an accepted command (R62): the rule of the command, or ERR_ILLEGAL for a reserved code (R70).
Decoding comes first (R73, R163). -/
def perform (c : Command) (s : State) : Host.Outcome State Fault Refusal :=
  match decode c with
  | .ok i => exec i s
  | .error _ => .next (s.raise .errIllegal)

/-- One rising edge of `clk` (R61). Reset wins over any command and any handshake (R163, R181). -/
def clockEdge (e : Edge) (s : State) : Host.Outcome State Fault Refusal :=
  if e.rst then .next s.resetEdge
  else if accepts e s then perform e.command s
  else if takes e s then .next s.takeResponse
  else .next s.passCycle

/-- The next edge and the edges after it; an idle edge when nothing more is listed (assumption 8). -/
def State.nextEdge (s : State) : Edge × List Edge :=
  match s.edges with
  | [] => (idleEdge, [])
  | e :: rest => (e, rest)

/-- The same machine with other edges to come. -/
def State.setEdges (s : State) (es : List Edge) : State := { s with edges := es }

/-- The machine at its next edge: the edge's inputs leave the list and act. -/
def stepEdge (s : State) : Host.Outcome State Fault Refusal :=
  clockEdge s.nextEdge.1 (s.setEdges s.nextEdge.2)

/-- The machine with command `c` on the port at its next edge, ready to be accepted: the host has taken a response that
was still pending, since the block accepts no command before (R63, R186; assumption 9). -/
def State.offer (s : State) (c : Command) : State :=
  s.takeResponse.setEdges (offerEdge c :: s.edges)

end Sys2Proof.Machine
end

