-- ==== Sys2Proof/Machine/Step.lean ====
section
/-! DEFINITION. The step of the machine: one rising edge of `clk` (R61), with the inputs the state lists for it. The
block has no program counter and fetches nothing (R28): a command comes through the command port. -/

namespace Sys2Proof.Machine

/-- One rising edge. -/
def step (s : State) : Host.Outcome State Fault Refusal := stepEdge s

/-- `s` with the command of bits `w` on the command port at the next edge, so that the next step accepts and performs
exactly it (assumption 9). -/
def State.withFetchWord (s : State) (nbits w : Nat) : State := s.offer (commandOfBits nbits w)

end Sys2Proof.Machine
end

