-- ==== Sys2Proof/Machine/Transaction.lean ====
section
/-! DEFINITION. Runs of the block. `runEdges` is the clocked view: a list of rising edges, and what the port shows at
each of them. `runTransactions` is the transaction view of R67: a list of accepted commands and resets, each one atomic
transition, and the response of each command. -/

namespace Sys2Proof.Machine

/-- What the port shows at an edge. -/
inductive Event where
  /-- A command was accepted (R62). -/
  | accepted (c : Command)
  /-- The host took a response (R65). -/
  | taken (r : Response)
  /-- A reset edge (R180). -/
  | reset
  /-- None of these. -/
  | quiet
  deriving DecidableEq, Repr

/-- What the port shows at edge `e` of the machine in state `s`. -/
def edgeEvent (e : Edge) (s : State) : Event :=
  if e.rst then .reset
  else if accepts e s then .accepted e.command
  else if takes e s then .taken ⟨s.rspSt, s.rspDat⟩
  else .quiet

/-- A run over rising edges: the last state and the events, one an edge. -/
def runEdges : List Edge → State → Host.Outcome (State × List Event) Fault Refusal
  | [], s => .next (s, [])
  | e :: es, s =>
    match clockEdge e s with
    | .fault f => .fault f
    | .refused r => .refused r
    | .next s' =>
      match runEdges es s' with
      | .fault f => .fault f
      | .refused r => .refused r
      | .next (t, evs) => .next (t, edgeEvent e s :: evs)

/-- A step of the transaction view: an accepted command, or a reset ("A reset is one more step kind", R67). -/
inductive Transaction where
  | command (c : Command)
  | reset
  deriving DecidableEq, Repr

/-- A run of the transaction view (R67): each command's transition and its response, taken before the next command
(R63); a reset gives no response. -/
def runTransactions : List Transaction → State → Host.Outcome (State × List Response) Fault Refusal
  | [], s => .next (s, [])
  | .reset :: ts, s => runTransactions ts s.resetEdge
  | .command c :: ts, s =>
    match perform c s with
    | .fault f => .fault f
    | .refused r => .refused r
    | .next s' =>
      match runTransactions ts s'.takeResponse with
      | .fault f => .fault f
      | .refused r => .refused r
      | .next (t, rs) => .next (t, ⟨s'.rspSt, s'.rspDat⟩ :: rs)

/-- A run of commands with no reset among them. -/
def runCommands (cs : List Command) (s : State) : Host.Outcome (State × List Response) Fault Refusal :=
  runTransactions (cs.map .command) s

/-- The transactions among the events of a clocked run: accepted commands and resets, in order. -/
def transactionsOf : List Event → List Transaction
  | [] => []
  | .accepted c :: evs => .command c :: transactionsOf evs
  | .reset :: evs => .reset :: transactionsOf evs
  | .taken _ :: evs => transactionsOf evs
  | .quiet :: evs => transactionsOf evs

/-- The responses the host took in a clocked run, in order. -/
def takenOf : List Event → List Response
  | [] => []
  | .taken r :: evs => r :: takenOf evs
  | .accepted _ :: evs => takenOf evs
  | .reset :: evs => takenOf evs
  | .quiet :: evs => takenOf evs

end Sys2Proof.Machine
end

