-- ==== Sys2Proof/Safety.lean ====
section
/-! DEFINITION. The terms claims are stated in: the all-zero state, the invariant every edge keeps, what two states must
share to be indistinguishable at the port, and rotation of the state words. -/

namespace Sys2Proof.Machine

/-- Every state word is zero, the degenerate fixed point of R21 and R107. -/
def State.AllZero (s : State) : Prop := ∀ i : Index, s.readS i = 0

/-- What every edge keeps, from any state that has it:
the position is 0 while no seed is committed (R31, R123, R183);
an error response carries the data word 0 (R72, R162);
the cycle count runs exactly while a response is pending (R64, R66). -/
structure State.Inv (s : State) : Prop where
  unseeded_pos : s.seeded = false → s.pos = 0
  error_data : s.rspPending = true → s.rspSt ≠ 0b00 → s.rspDat = 0
  pending_age : s.rspPending = true ↔ 1 ≤ s.rspAge

/-- The two states show the host the same: they agree wherever a state element holds a value (R31). They may differ in
state words while no seed is committed, in staging words not staged, in the response register while no response is
pending, and in the free values still to come. -/
structure State.SameVisible (s t : State) : Prop where
  pos : s.pos = t.pos
  seeded : s.seeded = t.seeded
  mask : s.mask = t.mask
  words : ∀ i : Index, s.heldWord i = t.heldWord i
  stage : ∀ i : Index, s.heldStage i = t.heldStage i
  response : s.heldResponse = t.heldResponse
  age : s.rspAge = t.rspAge
  edges : s.edges = t.edges

/-- `t` is `s` rotated by `p`: word `i` of `t` is word `(i + p) mod 16` of `s`, and the position of `t` is `p` behind
that of `s` (R110). -/
structure State.Rotated (p : Index) (s t : State) : Prop where
  words : ∀ i : Index, t.readS i = s.readS (i + p)
  pos : s.pos = t.pos + p
  seeded : s.seeded = true ∧ t.seeded = true

/-- A response waits for the host, with this status code and this data word (R26, R64). -/
structure State.Responded (t : State) (st : BitVec 2) (d : Word) : Prop where
  pending : t.rspPending = true
  st : t.rspSt = st
  dat : t.rspDat = d

/-- Everything but the response register (and the model's cycle count that goes with it) is the same (R162). -/
structure State.SameButResponse (s t : State) : Prop where
  S : t.S = s.S
  pos : t.pos = s.pos
  seeded : t.seeded = s.seeded
  Stage : t.Stage = s.Stage
  mask : t.mask = s.mask
  freeCount : t.freeCount = s.freeCount
  edges : t.edges = s.edges

end Sys2Proof.Machine
end

