-- ==== Sys2Proof/Machine/Assembly.lean ====
section
/-! DEFINITION. The command assembly language (R75) and its pseudo-commands (R76): the commands each expands to, and a
reader of one line of text. -/

namespace Sys2Proof.Machine

/-- All 16 indices, 0 first. -/
def allIndices : List Index := (List.range 16).map (BitVec.ofNat 4)

/-- `SETSEED w0, ..., w15`: SEEDW 0 to SEEDW 15, then COMMIT (R76, R125). -/
def setSeedCommands (w : Bank) : List Command :=
  allIndices.map (fun i => encode (.seedw i (bankRead w i))) ++ [encode .commit]

/-- `GETSTATE`: GETW 0 to GETW 15, then STATUS (R76, R126). -/
def getStateCommands : List Command := allIndices.map (fun i => encode (.getw i)) ++ [encode .status]

/-- The bank whose word `i` is `g[(i + p) mod 16]` (R76, R110). -/
def rotate (p : Index) (g : Bank) : Bank := Vector.ofFn fun i => bankRead g (BitVec.ofFin i + p)

/-- `RESTORE p, g0, ..., g15`: SEEDW i of `g[(i + p) mod 16]` for i = 0..15, then COMMIT (R76, R127). -/
def restoreCommands (p : Index) (g : Bank) : List Command := setSeedCommands (rotate p g)

/-- `DRAW n`: NEXT, n times (R76). -/
def drawCommands (n : Nat) : List Command := List.replicate n (encode .next)

/-- A line of the assembly language (R75), or a pseudo-command (R76). Operands are the numbers as written; whether they
are in range is `AsmLine.wellFormed`. -/
inductive AsmLine where
  /-- Nothing but a comment or white space. -/
  | blank
  | nop
  | next
  | getw (i : Nat)
  | seedw (i v : Nat)
  | commit
  | status
  /-- `.cmd <code>[, <v>]`: a raw command code, for reserved codes. -/
  | cmd (code v : Nat)
  | setseed (w : List Nat)
  | getstate
  | restore (p : Nat) (g : List Nat)
  | draw (n : Nat)
  deriving DecidableEq, Repr

/-- A bank from 16 written numbers. -/
def bankOfNats (w : List Nat) : Bank := Vector.ofFn fun i => BitVec.ofNat 64 (w.getD i 0)

/-- The commands a line assembles to (R75: one pair for each command; `cmd_data` is 0 where the line has no `<v>`). -/
def assemble : AsmLine → List Command
  | .blank => []
  | .nop => [encode .nop]
  | .next => [encode .next]
  | .getw i => [encode (.getw (BitVec.ofNat 4 i))]
  | .seedw i v => [encode (.seedw (BitVec.ofNat 4 i) (BitVec.ofNat 64 v))]
  | .commit => [encode .commit]
  | .status => [encode .status]
  | .cmd code v => [⟨BitVec.ofNat 8 code, BitVec.ofNat 64 v⟩]
  | .setseed w => setSeedCommands (bankOfNats w)
  | .getstate => getStateCommands
  | .restore p g => restoreCommands (BitVec.ofNat 4 p) (bankOfNats g)
  | .draw n => drawCommands n

/-- A token ends here: the characters read so far, if any (held last first). -/
def flushToken (cur : List Char) : List (List Char) := if cur.isEmpty then [] else [cur.reverse]

/-- The tokens of a line: white space separates, a comma is a token, a semicolon starts the comment (assumption 12). -/
def tokens : List Char → List Char → List (List Char)
  | [], cur => flushToken cur
  | c :: cs, cur =>
    if c = ';' then flushToken cur
    else if c = ' ' ∨ c = '\t' then flushToken cur ++ tokens cs []
    else if c = ',' then flushToken cur ++ [','] :: tokens cs []
    else tokens cs (c :: cur)

/-- The value of a decimal digit. -/
def decimalDigit (c : Char) : Option Nat :=
  if '0' ≤ c ∧ c ≤ '9' then some (c.toNat - '0'.toNat) else none

/-- The value of a hexadecimal digit. -/
def hexDigit (c : Char) : Option Nat :=
  if 'a' ≤ c ∧ c ≤ 'f' then some (c.toNat - 'a'.toNat + 10)
  else if 'A' ≤ c ∧ c ≤ 'F' then some (c.toNat - 'A'.toNat + 10)
  else decimalDigit c

/-- The number written by digits in a base, after the digits already read as `n`. -/
def readDigits (base : Nat) (digit : Char → Option Nat) : List Char → Nat → Option Nat
  | [], n => some n
  | c :: cs, n =>
    match digit c with
    | none => none
    | some d => readDigits base digit cs (base * n + d)

/-- A decimal number (`<i>` of R75). -/
def readDecimal : List Char → Option Nat
  | [] => none
  | c :: cs => readDigits 10 decimalDigit (c :: cs) 0

/-- A number written `0x` (`<code>` of R75). -/
def readHex : List Char → Option Nat
  | '0' :: 'x' :: c :: cs => readDigits 16 hexDigit (c :: cs) 0
  | _ => none

/-- A number "written in decimal or as `0x` hexadecimal" (`<v>` of R75). -/
def readValue (t : List Char) : Option Nat := readHex t <|> readDecimal t

/-- The operands of a line: tokens with one comma between each two. -/
def operandTokens : List (List Char) → Option (List (List Char))
  | [] => some []
  | [t] => if t = [','] then none else some [t]
  | t :: c :: rest =>
    if t = [','] ∨ c ≠ [','] ∨ rest = [] then none else (operandTokens rest).map (t :: ·)

/-- Every value of a list of tokens. -/
def readValues (ts : List (List Char)) : Option (List Nat) := ts.mapM readValue

/-- The line of a mnemonic and its operands (R75, R76). -/
def lineOf (m : List Char) (ops : List (List Char)) : Option AsmLine :=
  if m = ['N', 'O', 'P'] ∧ ops = [] then some .nop
  else if m = ['N', 'E', 'X', 'T'] ∧ ops = [] then some .next
  else if m = ['C', 'O', 'M', 'M', 'I', 'T'] ∧ ops = [] then some .commit
  else if m = ['S', 'T', 'A', 'T', 'U', 'S'] ∧ ops = [] then some .status
  else if m = ['G', 'E', 'T', 'S', 'T', 'A', 'T', 'E'] ∧ ops = [] then some .getstate
  else if m = ['G', 'E', 'T', 'W'] then
    match ops with
    | [i] => (readDecimal i).map .getw
    | _ => none
  else if m = ['D', 'R', 'A', 'W'] then
    match ops with
    | [n] => (readDecimal n).map .draw
    | _ => none
  else if m = ['S', 'E', 'E', 'D', 'W'] then
    match ops with
    | [i, v] => (readDecimal i).bind fun i => (readValue v).map (.seedw i)
    | _ => none
  else if m = ['.', 'c', 'm', 'd'] then
    match ops with
    | [c] => (readHex c).map fun c => .cmd c 0
    | [c, v] => (readHex c).bind fun c => (readValue v).map (.cmd c)
    | _ => none
  else if m = ['S', 'E', 'T', 'S', 'E', 'E', 'D'] then (readValues ops).map .setseed
  else if m = ['R', 'E', 'S', 'T', 'O', 'R', 'E'] then
    match ops with
    | p :: g => (readDecimal p).bind fun p => (readValues g).map (.restore p)
    | [] => none
  else none

/-- One line of text read as a line of the language; none where it is no line of it. -/
def readLine (text : List Char) : Option AsmLine :=
  match tokens text [] with
  | [] => some .blank
  | m :: rest => (operandTokens rest).bind (lineOf m)

end Sys2Proof.Machine
end

