-- ==== Sys2Proof/WellFormed.lean ====
section
/-! DEFINITION. Well-formedness. A term of `Instr` needs no check: its index is 4 bits and its data word 64, so every
term is a legal command (R43, R69). What can be ill formed is a line of the assembly language, whose operands are
numbers as written (R75, R76). -/

namespace Sys2Proof.Machine

/-- `<i>` is a decimal 0..15. -/
def indexOk (i : Nat) : Bool := decide (i < 16)

/-- `<v>` is a 64-bit unsigned value. -/
def valueOk (v : Nat) : Bool := decide (v < 0x10000000000000000)

/-- `<code>` is 0x00..0xFF. -/
def codeOk (code : Nat) : Bool := decide (code < 256)

/-- Sixteen 64-bit unsigned values. -/
def seedOk (w : List Nat) : Bool := w.length == 16 && w.all valueOk

/-- The operands of a line are in range (R75, R76). -/
def AsmLine.wellFormed : AsmLine → Bool
  | .blank => true
  | .nop => true
  | .next => true
  | .getw i => indexOk i
  | .seedw i v => indexOk i && valueOk v
  | .commit => true
  | .status => true
  | .cmd code v => codeOk code && valueOk v
  | .setseed w => seedOk w
  | .getstate => true
  | .restore p g => indexOk p && seedOk g
  | .draw _ => true

/-- The commands of one line of text; none where it is no well-formed line. -/
def assembleText (text : List Char) : Option (List Command) :=
  match readLine text with
  | none => none
  | some l => if l.wellFormed then some (assemble l) else none

end Sys2Proof.Machine
end

