-- ==== Sys2Proof/Certificates/Slice0/Obligations.lean ====
section
/-! DEFINITION. The statements for the provers, in the order of the spec's files. Each docstring names the rule it
formalises. Status codes stand as their 2-bit numbers (R71), so that no statement leans on the model's own table. -/

open Sys2Proof Sys2Proof.Machine

/-! ### 10_state.md -/

/-- R20: one edge changes the state words only by NEXT, which changes at most word `(pos + 1) mod 16`, or by a COMMIT
that finds the mask full, which loads all 16 words from the staging buffer. A reset edge does not rewrite them (R181). -/
def Obligations.StateWordsChangeOnlyByNextOrCommit : Prop :=
  ∀ (e : Edge) (s : State), ∃ t, clockEdge e s = .next t ∧
    (t.S = s.S ∨
     (e.rst = false ∧ decode ⟨e.cmdCode, e.cmdData⟩ = .ok .next ∧ s.seeded = true ∧ e.cmdValid = true ∧
      s.rspPending = false ∧ ∀ j : Index, j ≠ s.pos + 1 → t.readS j = s.readS j) ∨
     (e.rst = false ∧ decode ⟨e.cmdCode, e.cmdData⟩ = .ok .commit ∧ s.mask = 0xFFFF#16 ∧ e.cmdValid = true ∧
      s.rspPending = false ∧ ∀ j : Index, t.readS j = s.readStage j))

/-- R21: a COMMIT of an all-zero seed is accepted, and from then on every NEXT returns 0. -/
def Obligations.ZeroSeedIsAcceptedAndDrawsZero : Prop :=
  ∀ (s : State) (n : Nat), s.mask = 0xFFFF#16 → (∀ i : Index, s.readStage i = 0) →
    ∃ t, runCommands (⟨0x40, 0⟩ :: List.replicate n ⟨0x10, 0⟩) s = .next (t, List.replicate (n + 1) ⟨0b00, 0⟩) ∧
      t.AllZero ∧ t.seeded = true

/-- R22: one edge changes the position only by reset or COMMIT, which set it to 0, or by NEXT, which advances it by one
modulo 16 and leaves it on the word it wrote. -/
def Obligations.PositionChangesOnlyByResetCommitNext : Prop :=
  ∀ (e : Edge) (s : State), ∃ t, clockEdge e s = .next t ∧
    (t.pos = s.pos ∨
     (e.rst = true ∧ t.pos = 0) ∨
     (accepts e s = true ∧ decode ⟨e.cmdCode, e.cmdData⟩ = .ok .commit ∧ s.mask = 0xFFFF#16 ∧ t.pos = 0) ∨
     (accepts e s = true ∧ decode ⟨e.cmdCode, e.cmdData⟩ = .ok .next ∧ s.seeded = true ∧
      t.pos.toNat = (s.pos.toNat + 1) % 16 ∧ ∀ j : Index, j ≠ t.pos → t.readS j = s.readS j))

/-- R23: reset clears `seeded`, only a COMMIT that succeeds sets it, and while it is 0 NEXT and GETW are refused with
ERR_UNSEEDED (0b10). -/
def Obligations.SeededIsSetOnlyByCommitAndClearedByReset : Prop :=
  (∀ (e : Edge) (s : State), e.rst = true → ∃ t, clockEdge e s = .next t ∧ t.seeded = false) ∧
  (∀ (e : Edge) (s t : State), clockEdge e s = .next t → s.seeded = false → t.seeded = true →
    accepts e s = true ∧ decode ⟨e.cmdCode, e.cmdData⟩ = .ok .commit ∧ t.rspSt = 0b00) ∧
  (∀ (e : Edge) (s t : State), clockEdge e s = .next t → s.seeded = true → t.seeded = false → e.rst = true) ∧
  (∀ s : State, s.seeded = false → ∀ i : Instr, (i = .next ∨ ∃ k, i = .getw k) →
    ∃ t, exec i s = .next t ∧ t.Responded 0b10 0)

/-- R24: only SEEDW writes a staging word and only COMMIT reads one; no response depends on the staging words. -/
def Obligations.StagingIsWrittenBySeedwAndReadByCommit : Prop :=
  (∀ (e : Edge) (s : State), ∃ t, clockEdge e s = .next t ∧
    (t.Stage = s.Stage ∨
     ∃ i v, accepts e s = true ∧ decode ⟨e.cmdCode, e.cmdData⟩ = .ok (.seedw i v) ∧ t.readStage i = v ∧
       ∀ j : Index, j ≠ i → t.readStage j = s.readStage j)) ∧
  (∀ (c : Command) (s : State) (b : Bank), ∃ t u,
    perform c s = .next t ∧ perform c { s with Stage := b } = .next u ∧ u.rspSt = t.rspSt ∧ u.rspDat = t.rspDat ∧
    u.pos = t.pos ∧ u.seeded = t.seeded ∧ u.mask = t.mask ∧ (decode c ≠ .ok .commit → u.S = t.S))

/-- R25: SEEDW sets its own mask bit, a COMMIT that succeeds and a reset clear all 16 bits, a COMMIT that is refused
leaves them, nothing else changes a bit, and STATUS reads them. -/
def Obligations.MaskBitsFollowSeedwCommitReset : Prop :=
  (∀ (i : Index) (v : Word) (s : State), ∃ t, exec (.seedw i v) s = .next t ∧
    ∀ j : Index, t.maskBit j = (s.maskBit j || decide (j = i))) ∧
  (∀ s : State, s.mask = 0xFFFF#16 → ∃ t, exec .commit s = .next t ∧ ∀ j : Index, t.maskBit j = false) ∧
  (∀ s : State, s.mask ≠ 0xFFFF#16 → ∃ t, exec .commit s = .next t ∧ t.mask = s.mask) ∧
  (∀ (e : Edge) (s : State), e.rst = true → ∃ t, clockEdge e s = .next t ∧ ∀ j : Index, t.maskBit j = false) ∧
  (∀ (e : Edge) (s t : State), clockEdge e s = .next t → t.mask ≠ s.mask →
    e.rst = true ∨ (accepts e s = true ∧ (decode ⟨e.cmdCode, e.cmdData⟩ = .ok .commit ∨
      ∃ i v, decode ⟨e.cmdCode, e.cmdData⟩ = .ok (.seedw i v)))) ∧
  (∀ s : State, ∃ t, exec .status s = .next t ∧ ∀ j : Index, t.rspDat.getLsbD (16 + j.toNat) = s.maskBit j)

/-- R27, R124: the status word, bit by bit: POS in bits 3..0, SEEDED in bit 4, STAGED in bits 31..16, every other bit 0; it
is a view, and each of its fields is 0 after reset. -/
def Obligations.StatusWordShowsPosSeededStaged : Prop :=
  (∀ d : Word, decode ⟨0x50, d⟩ = .ok .status) ∧
  (∀ s : State, ∃ t, exec .status s = .next t ∧ t.Responded 0b00 t.rspDat ∧ s.SameButResponse t ∧
    (∀ k < 4, t.rspDat.getLsbD k = s.pos.getLsbD k) ∧
    t.rspDat.getLsbD 4 = s.seeded ∧
    (∀ k, 5 ≤ k → k < 16 → t.rspDat.getLsbD k = false) ∧
    (∀ i : Index, t.rspDat.getLsbD (16 + i.toNat) = s.maskBit i) ∧
    (∀ k, 32 ≤ k → t.rspDat.getLsbD k = false)) ∧
  ∃ t, exec .status State.reset = .next t ∧ t.rspDat = 0

/-- R31: the values the spec gives for reset, and no value held in `S`, `Stage` and the response register, so
that no response is driven and a command can be accepted. (That the model's own contents there are 0 is no part of this
statement: assumptions 1, 2, 3; that "no value" is what the held views answer is the model's choice, assumption 10.) -/
def Obligations.ResetStateHasTheSpecsValues : Prop :=
  State.reset.pos = 0 ∧ State.reset.seeded = false ∧ State.reset.mask = 0x0000#16 ∧ State.reset.rspPending = false ∧
    State.reset.heldResponse = none ∧ (∀ i : Index, State.reset.heldWord i = none ∧ State.reset.heldStage i = none) ∧
    ∀ e : Edge, rspPort e State.reset = none ∧ (cmdReady e State.reset = true ↔ e.rst = false ∧ e.readyChoice = true)

/-- R31, 93 U1 to U3: what has no value after reset never reaches the port. Two states that agree wherever an element
holds a value drive the same outputs at every edge, and after it agree again. -/
def Obligations.UnspecifiedContentsNeverReachThePort : Prop :=
  ∀ s t : State, s.SameVisible t →
    (∀ e : Edge, outputs e s = outputs e t) ∧ s.statusWord = t.statusWord ∧
    ∃ s' t', step s = .next s' ∧ step t = .next t' ∧ s'.SameVisible t'

/-! ### 20_memory.md -/

/-- R45: GETW and STATUS have no side effect on state, so repeating them returns the same; SEEDW is idempotent; a second
COMMIT with no SEEDW in between, whatever other commands stand there, is refused. -/
def Obligations.RepeatedCommandsBehaveAsStated : Prop :=
  (∀ (i : Instr) (s : State), (i = .status ∨ ∃ k, i = .getw k) →
    ∃ t u, exec i s = .next t ∧ s.SameButResponse t ∧ exec i t = .next u ∧
      u.rspSt = t.rspSt ∧ u.rspDat = t.rspDat ∧ s.SameButResponse u) ∧
  (∀ (k : Index) (v : Word) (s : State), ∃ t u,
    exec (.seedw k v) s = .next t ∧ exec (.seedw k v) t = .next u ∧ u = t) ∧
  (∀ (s t : State) (between : List Command), exec .commit s = .next t → t.rspSt = 0b00 →
    (∀ c ∈ between, ∀ k v, decode c ≠ .ok (.seedw k v)) →
    ∃ u rs v, runCommands between t.takeResponse = .next (u, rs) ∧
      exec .commit u = .next v ∧ v.Responded 0b11 0 ∧ u.SameButResponse v)

/-- R53: with no NEXT and no successful COMMIT among them, GETW commands return the words as they stood when the first
command was accepted, in whatever order, and a STATUS among them returns the position of that moment. -/
def Obligations.ReadsWithoutNextOrCommitAreOneSnapshot : Prop :=
  ∀ (cs : List Command) (s t : State) (rs : List Response), s.seeded = true → runCommands cs s = .next (t, rs) →
    (∀ (k : Nat) (c : Command) (r : Response), cs[k]? = some c → rs[k]? = some r →
      decode c ≠ .ok .next ∧ (decode c = .ok .commit → r.st ≠ 0b00)) →
    rs.length = cs.length ∧ t.S = s.S ∧ t.pos = s.pos ∧
    (∀ (k : Nat) (c : Command) (i : Index), cs[k]? = some c → decode c = .ok (.getw i) →
      rs[k]? = some ⟨0b00, s.readS i⟩) ∧
    (∀ (k : Nat) (c : Command), cs[k]? = some c → decode c = .ok .status →
      ∃ r, rs[k]? = some r ∧ r.st = 0b00 ∧ r.dat.setWidth 4 = s.pos)

/-! ### 30_encoding.md -/

/-- R62: at an edge with `rst = 0`, `cmd_valid = 1` and `cmd_ready = 1` the step performs the command on the port: the
meaning of the instruction it decodes to, on the state with that edge's inputs used up, or ERR_ILLEGAL. -/
def Obligations.StepRunsTheDecodedCommand : Prop :=
  ∀ (s : State) (e : Edge) (rest : List Edge), s.edges = e :: rest →
    e.rst = false → e.cmdValid = true → cmdReady e s = true →
    (∀ i, decode ⟨e.cmdCode, e.cmdData⟩ = .ok i → step s = exec i (s.setEdges rest)) ∧
    (∀ r, decode ⟨e.cmdCode, e.cmdData⟩ = .error r → ∃ t, step s = .next t ∧ t.Responded 0b01 0 ∧
      (s.setEdges rest).SameButResponse t)

/-- Every step uses up one listed edge and never stops the machine; when none is listed the host is idle, and no
architectural element changes (assumption 8, the model's own). -/
def Obligations.StepUsesUpOneEdge : Prop :=
  (∀ (s : State) (e : Edge) (rest : List Edge), s.edges = e :: rest →
    ∃ t, step s = .next t ∧ t.edges = rest ∧ clockEdge e (s.setEdges rest) = .next t) ∧
  (∀ s : State, s.edges = [] → ∃ t, step s = .next t ∧ s.SameButResponse t ∧ t.rspPending = s.rspPending ∧
    t.rspSt = s.rspSt ∧ t.rspDat = s.rspDat)

/-- The host's interface (assumption 9): after `withFetchWord` with the 72 bits of a command, the next step performs
exactly that command, with a response that was still pending taken first. -/
def Obligations.PlacedCommandIsTheNextPerformed : Prop :=
  ∀ (s : State) (c : Command),
    step (s.withFetchWord 72 (c.code.toNat + 256 * c.data.toNat)) = perform c s.takeResponse

/-- R63: `cmd_ready` is 0 during reset and while a response is pending, so no command is performed then: the state is kept,
and the pending response too until the host takes it. `cmd_ready` may be 0 in any other cycle. -/
def Obligations.NoCommandIsAcceptedWhileAResponseIsPending : Prop :=
  (∀ (e : Edge) (s : State), e.rst = true ∨ s.rspPending = true → cmdReady e s = false ∧ accepts e s = false) ∧
  (∀ (e : Edge) (s : State), e.rst = false → s.rspPending = true → ∃ t, clockEdge e s = .next t ∧ s.SameButResponse t ∧
    (takes e s = false → t.rspPending = true ∧ t.rspSt = s.rspSt ∧ t.rspDat = s.rspDat)) ∧
  (∀ (e : Edge) (s : State), e.rst = false → s.rspPending = false →
    ∃ b, cmdReady { e with readyChoice := b } s = false)

/-- R64: an accepted command's response is driven from the `RSP_LATENCY`-th cycle after the acceptance edge until the
handshake, stable; before that `rsp_valid` is 0 and nothing is driven. R66: `rsp_valid` rises exactly then. (That the
cycle right after the acceptance edge is number 1 is the model's reading, assumption 6.) -/
def Obligations.ResponseIsOfferedExactlyFromTheLatencyOn : Prop :=
  (1 ≤ Config.rspLatency) ∧
  (∀ (e : Edge) (s : State), accepts e s = true → ∃ t, clockEdge e s = .next t ∧
    perform ⟨e.cmdCode, e.cmdData⟩ s = .next t ∧ t.rspPending = true ∧ ∀ es : List Edge, (∀ x ∈ es, x.rst = false) → es.length < Config.rspLatency →
      ∃ u evs, runEdges es t = .next (u, evs) ∧ u.rspPending = true ∧ u.rspSt = t.rspSt ∧ u.rspDat = t.rspDat ∧
        ∀ x : Edge, x.rst = false →
          (rspValid x u = true ↔ es.length + 1 = Config.rspLatency) ∧
          (rspPort x u = if es.length + 1 = Config.rspLatency then some ⟨t.rspSt, t.rspDat⟩ else none)) ∧
  (∀ (x y : Edge) (u : State), rspValid x u = true → x.rspReady = false → y.rst = false →
    ∃ u', clockEdge x u = .next u' ∧ rspValid y u' = true ∧ rspPort y u' = some ⟨u.rspSt, u.rspDat⟩)

/-- R65, first sentence: the response handshake clears `rsp_pending` and changes no other element; without it (and without
reset) a pending response stays pending, with its status and data. (That the contents of `rsp_st` and `rsp_dat` outlast the
handshake is the model's reading, assumption 17.) -/
def Obligations.HandshakeTakesTheResponse : Prop :=
  (∀ (e : Edge) (s : State), e.rst = false → rspValid e s = true → e.rspReady = true →
    ∃ t, clockEdge e s = .next t ∧ t.rspPending = false ∧ t.rspSt = s.rspSt ∧ t.rspDat = s.rspDat ∧
      s.SameButResponse t) ∧
  (∀ (e : Edge) (s : State), e.rst = false → s.rspPending = true → (rspValid e s = false ∨ e.rspReady = false) →
    ∃ t, clockEdge e s = .next t ∧ t.rspPending = true ∧ t.rspSt = s.rspSt ∧ t.rspDat = s.rspDat ∧ s.SameButResponse t)

/-- R66: a host that holds its command until `cmd_ready` rises and then holds `rsp_ready` sees the command finish: after
any finite number of cycles with `cmd_ready` low, the command is accepted at the first edge at which it is not, and its
one response is taken at the `RSP_LATENCY`-th edge after that. (The count of cycles is the model's reading, assumption 6;
that `cmd_ready` rises at all is a premise on the edges, assumption 7.) -/
def Obligations.OfferedCommandFinishes : Prop :=
  ∀ (c : Command) (s t : State) (waits rests : List Edge) (a : Edge), s.rspPending = false →
    (∀ x ∈ waits, x.rst = false ∧ cmdReady x s = false) →
    a.rst = false → a.cmdValid = true → a.cmdCode = c.code → a.cmdData = c.data → cmdReady a s = true →
    rests.length = Config.rspLatency → (∀ x ∈ rests, x.rst = false ∧ x.rspReady = true) →
    perform c s = .next t →
    ∃ u evs, runEdges (waits ++ a :: rests) s = .next (u, evs) ∧ u.rspPending = false ∧ t.SameButResponse u ∧
      transactionsOf evs = [.command c] ∧ takenOf evs = [⟨t.rspSt, t.rspDat⟩]

/-- R67: the transaction view. Over any clocked run that starts with no response pending, with resets wherever they
fall, the state elements are those of the transaction run over the accepted commands and resets; every response the host
takes is one of that run's, in order; and with no reset among the edges they are exactly that run's responses, the one
still pending at the end being the last (R65: every accepted command gets exactly one response). -/
def Obligations.ClockedRunRefinesTheTransactionView : Prop :=
  ∀ (es : List Edge) (s : State), s.rspPending = false →
    ∃ t evs u rs, runEdges es s = .next (t, evs) ∧ evs.length = es.length ∧
      runTransactions (transactionsOf evs) s = .next (u, rs) ∧ u.SameButResponse t ∧
      (takenOf evs).Sublist rs ∧
      ((∀ e ∈ es, e.rst = false) → rs = takenOf evs ++ t.heldResponse.toList)

/-- The machine's own run is the clocked run over the edges it lists (the list is the model's own, assumption 8). -/
def Obligations.CoreRunIsTheClockedRun : Prop :=
  ∀ (es rest : List Edge) (s : State), ∃ t evs,
    runEdges es (s.setEdges rest) = .next (t, evs) ∧
    Host.Core.run Sys2Proof.core es.length (s.setEdges (es ++ rest)) = .next t ∧ t.edges = rest

/-- R68: the two fields of a code, and the opcode map: exactly the codes of the six rows are commands, 36 of the 256. -/
def Obligations.OpcodeMapIsTheTable : Prop :=
  (∀ c : Command, decode c = .ok .nop ↔ c.code = 0x00) ∧
  (∀ c : Command, decode c = .ok .next ↔ c.code = 0x10) ∧
  (∀ (c : Command) (i : Index), decode c = .ok (.getw i) ↔ c.code.toNat = 0x20 + i.toNat) ∧
  (∀ (c : Command) (i : Index) (v : Word), decode c = .ok (.seedw i v) ↔ c.code.toNat = 0x30 + i.toNat ∧ c.data = v) ∧
  (∀ c : Command, decode c = .ok .commit ↔ c.code = 0x40) ∧
  (∀ c : Command, decode c = .ok .status ↔ c.code = 0x50) ∧
  (∀ d : Word, ((List.range 256).filter fun k => (decode ⟨BitVec.ofNat 8 k, d⟩).isOk).length = 36)

/-- R69: the index operand is `cmd_code[3:0]`, unscaled, the data operand of SEEDW is `cmd_data`, whole, and for every
other command `cmd_data` has no effect at all. -/
def Obligations.OperandsComeFromTheirFields : Prop :=
  (∀ (c : Command) (i : Index), decode c = .ok (.getw i) → i.toNat = c.code.toNat % 16) ∧
  (∀ (c : Command) (i : Index) (v : Word), decode c = .ok (.seedw i v) → i.toNat = c.code.toNat % 16 ∧ v = c.data) ∧
  (∀ (code : BitVec 8) (d d' : Word) (s : State), code.toNat / 16 ≠ 3 →
    decode ⟨code, d⟩ = decode ⟨code, d'⟩ ∧ perform ⟨code, d⟩ s = perform ⟨code, d'⟩ s)

/-- R70: the reserved codes, each performing `raise ERR_ILLEGAL`: status 0b01, data 0, no other state changed, whatever
the data, `seeded` or `mask` hold. -/
def Obligations.ReservedCodesRaiseErrIllegal : Prop :=
  ∀ (c : Command) (s : State),
    ((0x01 ≤ c.code.toNat ∧ c.code.toNat ≤ 0x0F) ∨ (0x11 ≤ c.code.toNat ∧ c.code.toNat ≤ 0x1F) ∨
     (0x41 ≤ c.code.toNat ∧ c.code.toNat ≤ 0x4F) ∨ (0x51 ≤ c.code.toNat ∧ c.code.toNat ≤ 0x5F) ∨ 0x60 ≤ c.code.toNat) →
    decode c = .error (.reservedCode c.code) ∧
    ∃ t, perform c s = .next t ∧ t.Responded 0b01 0 ∧ s.SameButResponse t

/-- R72: the response data of every command: 0 for NOP, SEEDW and COMMIT, the scrambled new word for NEXT, the word for
GETW, the status word for STATUS; and 0 whenever the status is not OK. -/
def Obligations.ResponseDataOfEveryCommand : Prop :=
  ∀ (i : Instr) (s : State), ∃ t, exec i s = .next t ∧
    (t.rspSt ≠ 0b00 → t.rspDat = 0) ∧
    (t.rspSt = 0b00 → t.rspDat = match i with
      | .nop => 0
      | .next => t.readS t.pos * 0x106689D45497FDB5
      | .getw k => s.readS k
      | .seedw _ _ => 0
      | .commit => 0
      | .status => (s.mask ++ 0#11 ++ BitVec.ofBool s.seeded ++ s.pos).setWidth 64)

/-- R73: the decoder is total, and `cmd_data` never changes which command is performed. -/
def Obligations.DecodeReadsTheCodeAlone : Prop :=
  ∀ (code : BitVec 8) (d d' : Word),
    (∃ i, decode ⟨code, d⟩ = .ok i ∧
      (decode ⟨code, d'⟩ = .ok i ∨ ∃ k, i = .seedw k d ∧ decode ⟨code, d'⟩ = .ok (.seedw k d'))) ∨
    (decode ⟨code, d⟩ = .error (.reservedCode code) ∧ decode ⟨code, d'⟩ = .error (.reservedCode code))

/-- R68, one word for each command, written out from the opcode map, with every data word. -/
def Obligations.WordsOfTheOpcodeMapDecode : Prop :=
  ∀ d : Word, decode ⟨0b00000000, d⟩ = .ok .nop ∧ decode ⟨0b00010000, d⟩ = .ok .next ∧
    decode ⟨0b00101111, d⟩ = .ok (.getw 15) ∧ decode ⟨0b00110011, d⟩ = .ok (.seedw 3 d) ∧
    decode ⟨0b01000000, d⟩ = .ok .commit ∧ decode ⟨0b01010000, d⟩ = .ok .status

/-- Decode and encode agree, both ways: every instruction's words decode to it, also as the opcode table numbers their
bits (assumption 9, the model's choice); and a command that decodes to an instruction is that instruction's encoding but
for ignored data, which the encoder drives 0 (assumption 15, the model's choice). -/
def Obligations.DecodeAndEncodeAgree : Prop :=
  (∀ i : Instr, decode (encode i) = .ok i ∧
    decodeTableWord 72 ((encode i).code.toNat + 256 * (encode i).data.toNat) = some i) ∧
  (∀ (c : Command) (i : Instr), decode c = .ok i →
    (encode i).code = c.code ∧ (encode i).data = (if c.code.toNat / 16 = 3 then c.data else 0))

/-- R75: a well-formed line of a core command assembles to one pair whose code the opcode map gives that command, with
`cmd_data` 0 where the line has no value; `.cmd` assembles to its own numbers. -/
def Obligations.WellFormedLinesAssembleToTheirCommand : Prop :=
  (∀ n : Nat, (AsmLine.getw n).wellFormed = true →
    ∃ c, assemble (.getw n) = [c] ∧ c.code.toNat = 0x20 + n ∧ c.data = 0) ∧
  (∀ n v : Nat, (AsmLine.seedw n v).wellFormed = true →
    ∃ c, assemble (.seedw n v) = [c] ∧ c.code.toNat = 0x30 + n ∧ c.data.toNat = v) ∧
  (∀ n v : Nat, (AsmLine.cmd n v).wellFormed = true →
    ∃ c, assemble (.cmd n v) = [c] ∧ c.code.toNat = n ∧ c.data.toNat = v) ∧
  assemble .nop = [⟨0x00, 0⟩] ∧ assemble .next = [⟨0x10, 0⟩] ∧ assemble .commit = [⟨0x40, 0⟩] ∧
  assemble .status = [⟨0x50, 0⟩]

/-! ### 40_bit_engine.md -/

/-- R100: NEXT, with its six steps as the rule writes them, its encoding, its refusal while unseeded, and its frame. -/
def Obligations.NextDrawsAndAdvances : Prop :=
  (∀ d : Word, decode ⟨0x10, d⟩ = .ok .next) ∧
  (∀ s : State, s.seeded = true →
    ∃ t, exec .next s = .next t ∧
      (∀ s0 s1 : Word, s0 = s.readS s.pos → s1 = s.readS (s.pos + 1) →
        t.readS (s.pos + 1) =
          (s0 ^^^ (s0 >>> 30)) ^^^ ((s1 ^^^ (s1 <<< 31)) ^^^ ((s1 ^^^ (s1 <<< 31)) >>> 11))) ∧
      t.Responded 0b00 (t.readS (s.pos + 1) * 1181783497276652981) ∧
      t.pos = s.pos + 1 ∧ (∀ j : Index, j ≠ s.pos + 1 → t.readS j = s.readS j) ∧
      t.seeded = s.seeded ∧ t.Stage = s.Stage ∧ t.mask = s.mask ∧ t.freeCount = s.freeCount ∧ t.edges = s.edges) ∧
  (∀ s : State, s.seeded = false → ∃ t, exec .next s = .next t ∧ t.Responded 0b10 0 ∧ s.SameButResponse t)

/-- R101: the mixing function in the arithmetic of natural numbers (R11): a left shift by 31 is a product with 2^31
modulo 2^64, the right shifts by 30 and 11 are quotients by 2^30 and 2^11, and the second shift acts on the updated `s1`. NEXT writes it over the word after the position. -/
def Obligations.MixInNaturalNumberArithmetic : Prop :=
  (∀ s0 s1 : Word, ∀ t : Nat, t = s1.toNat ^^^ (s1.toNat * 0x80000000 % 0x10000000000000000) →
    (mix s0 s1).toNat = (s0.toNat ^^^ s0.toNat / 0x40000000) ^^^ (t ^^^ t / 0x800)) ∧
  (∀ s : State, s.seeded = true → ∃ t, exec .next s = .next t ∧
    t.readS (s.pos + 1) = mix (s.readS s.pos) (s.readS (s.pos + 1)))

/-- R102: NEXT's output is the stored word times MULT modulo 2^64, and the word stored is the unscrambled mix. -/
def Obligations.OutputIsTheScrambledStoredWord : Prop :=
  ∀ s : State, s.seeded = true → ∃ t, exec .next s = .next t ∧
    t.rspDat.toNat = (t.readS t.pos).toNat * 1181783497276652981 % 0x10000000000000000 ∧
    t.readS t.pos = mix (s.readS s.pos) (s.readS t.pos)

/-- R103: the two operand words are different words; NEXT reads its destination before it writes it, never writes the
word at `pos`, and changes no word but its destination (and none where the mixed value equals the old one). -/
def Obligations.NextWritesOneWordAndKeepsItsSource : Prop :=
  ∀ s : State, s.seeded = true → s.pos ≠ s.pos + 1 ∧ ∃ t, exec .next s = .next t ∧
    t.readS s.pos = s.readS s.pos ∧
    t.readS (s.pos + 1) = mix (s.readS s.pos) (s.readS (s.pos + 1)) ∧
    ∀ j : Index, j ≠ s.pos + 1 → t.readS j = s.readS j

/-- R104: at position 15 NEXT mixes word 15 into word 0 and the position wraps to 0; and after a COMMIT the (k+1)-th
NEXT writes word `(k + 1) mod 16` and no other. -/
def Obligations.PositionWrapsAndDrawsWriteInTurn : Prop :=
  (∀ s : State, s.seeded = true → s.pos = 15 → ∃ t, exec .next s = .next t ∧ t.pos = 0 ∧
    t.readS 0 = mix (s.readS 15) (s.readS 0)) ∧
  (∀ (s : State) (k : Nat), s.mask = 0xFFFF#16 → ∃ t u rs rs',
    runCommands (⟨0x40, 0⟩ :: List.replicate k ⟨0x10, 0⟩) s = .next (t, rs) ∧
    runCommands (⟨0x40, 0⟩ :: List.replicate (k + 1) ⟨0x10, 0⟩) s = .next (u, rs') ∧
    t.pos.toNat = k % 16 ∧ u.pos.toNat = (k + 1) % 16 ∧
    u.readS u.pos = mix (t.readS t.pos) (t.readS u.pos) ∧
    ∀ j : Index, j.toNat ≠ (k + 1) % 16 → u.readS j = t.readS j)

/-- R106: NEXT's response and new state are a function of the state words and the position alone, so blocks with equal
words and position give equal output streams under equal command sequences, whatever their staging buffers, masks and
earlier responses hold; only where a COMMIT is among the commands must they have the same seed staged. -/
def Obligations.DrawsDependOnWordsAndPositionAlone : Prop :=
  ∀ (cs : List Command) (s t : State), s.seeded = true → t.seeded = true → s.S = t.S → s.pos = t.pos →
    ((s.Stage = t.Stage ∧ s.mask = t.mask) ∨ ∀ c ∈ cs, decode c ≠ .ok .commit) →
    ∃ s' t' rs rs', runCommands cs s = .next (s', rs) ∧ runCommands cs t = .next (t', rs') ∧
      s'.S = t'.S ∧ s'.pos = t'.pos ∧
      ∀ (k : Nat) (c : Command), cs[k]? = some c → decode c = .ok .next →
        ∃ r, rs[k]? = some r ∧ rs'[k]? = some r ∧ r.st = 0b00

/-- R107: the all-zero state is a fixed point of NEXT, which returns 0 and changes only the position; a state with a
nonzero word never becomes all-zero by NEXT; and the step map on (S, pos) is invertible, one to one and onto. -/
def Obligations.NextIsInvertibleAndKeepsNonzero : Prop :=
  (∀ s : State, s.seeded = true → s.AllZero → ∃ t, exec .next s = .next t ∧ t.Responded 0b00 0 ∧
    t.S = s.S ∧ t.pos = s.pos + 1 ∧ t.seeded = s.seeded ∧ t.Stage = s.Stage ∧ t.mask = s.mask) ∧
  (∀ s : State, ¬ s.AllZero → ∃ t, exec .next s = .next t ∧ ¬ t.AllZero) ∧
  (∀ s s' t t' : State, s.seeded = true → t.seeded = true → exec .next s = .next s' → exec .next t = .next t' →
    s'.S = t'.S → s'.pos = t'.pos → s.S = t.S ∧ s.pos = t.pos) ∧
  (∀ (b : Bank) (p : Index), ∃ s t, s.seeded = true ∧ exec .next s = .next t ∧ t.S = b ∧ t.pos = p)

/-- R109: multiplication by MULT is a bijection on words, and the output of NEXT determines the stored word by the
inverse multiplier. -/
def Obligations.OutputDeterminesTheStoredWord : Prop :=
  (Function.Bijective fun w : Word => w * 1181783497276652981) ∧
  (∀ s : State, s.seeded = true → ∃ t, exec .next s = .next t ∧
    t.readS t.pos = t.rspDat * 0xBB91F78BDAC4C89D)

/-- R110: rotation invariance. Two states that are rotations of each other draw equal streams forever, and stay
rotations of each other. -/
def Obligations.RotatedStatesDrawTheSameStream : Prop :=
  ∀ (p : Index) (s t : State) (n : Nat), State.Rotated p s t →
    ∃ s' t' rs, runCommands (List.replicate n ⟨0x10, 0⟩) s = .next (s', rs) ∧
      runCommands (List.replicate n ⟨0x10, 0⟩) t = .next (t', rs) ∧ rs.length = n ∧ (∀ r ∈ rs, r.st = 0b00) ∧
      State.Rotated p s' t'

/-! ### 41_state_access.md -/

/-- R120: NOP responds OK with data 0 in every state and changes nothing else. -/
def Obligations.NopOnlyResponds : Prop :=
  (∀ d : Word, decode ⟨0x00, d⟩ = .ok .nop) ∧
  ∀ s : State, ∃ t, exec .nop s = .next t ∧ t.Responded 0b00 0 ∧ s.SameButResponse t

/-- R121: GETW i returns the raw word `i` once seeded, ERR_UNSEEDED before, and changes nothing else; GETW of the word
NEXT just wrote returns the unscrambled mix. -/
def Obligations.GetwReadsTheRawWord : Prop :=
  (∀ (i : Index) (d : Word), decode ⟨0x20 ||| i.setWidth 8, d⟩ = .ok (.getw i)) ∧
  (∀ (i : Index) (s : State), s.seeded = true →
    ∃ t, exec (.getw i) s = .next t ∧ t.Responded 0b00 (s.readS i) ∧ s.SameButResponse t) ∧
  (∀ (i : Index) (s : State), s.seeded = false →
    ∃ t, exec (.getw i) s = .next t ∧ t.Responded 0b10 0 ∧ s.SameButResponse t) ∧
  (∀ s : State, s.seeded = true → ∃ t u, exec .next s = .next t ∧ exec (.getw t.pos) t = .next u ∧
    u.Responded 0b00 (mix (s.readS s.pos) (s.readS t.pos)))

/-- R122: SEEDW i, v stages `v` and sets the mask bit in every state; the last value wins; nothing but that staging word,
that mask bit and the response register changes. -/
def Obligations.SeedwStagesOneWord : Prop :=
  (∀ (i : Index) (d : Word), decode ⟨0x30 ||| i.setWidth 8, d⟩ = .ok (.seedw i d)) ∧
  (∀ (i : Index) (v : Word) (s : State), ∃ t, exec (.seedw i v) s = .next t ∧ t.Responded 0b00 0 ∧
    t.readStage i = v ∧ t.maskBit i = true ∧
    (∀ j : Index, j ≠ i → t.readStage j = s.readStage j ∧ t.maskBit j = s.maskBit j) ∧
    t.S = s.S ∧ t.pos = s.pos ∧ t.seeded = s.seeded ∧ t.freeCount = s.freeCount ∧ t.edges = s.edges) ∧
  (∀ (i : Index) (v w : Word) (s : State), ∃ t u, exec (.seedw i v) s = .next t ∧ exec (.seedw i w) t = .next u ∧
    exec (.seedw i w) s = .next u)

/-- R123: COMMIT with all 16 words staged copies them, sets `pos` to 0 and `seeded` to 1 and clears the mask, in one
transition; otherwise it is refused and changes nothing else. -/
def Obligations.CommitLoadsTheStagedSeed : Prop :=
  (∀ d : Word, decode ⟨0x40, d⟩ = .ok .commit) ∧
  (∀ s : State, s.mask = 0xFFFF#16 → ∃ t, exec .commit s = .next t ∧ t.Responded 0b00 0 ∧
    (∀ i : Index, t.readS i = s.readStage i) ∧ t.pos = 0 ∧ t.seeded = true ∧ t.mask = 0x0000#16 ∧
    t.Stage = s.Stage ∧ t.freeCount = s.freeCount ∧ t.edges = s.edges) ∧
  (∀ s : State, (∃ i : Index, s.maskBit i = false) →
    ∃ t, exec .commit s = .next t ∧ t.Responded 0b11 0 ∧ s.SameButResponse t)

/-- R122, R125, 93 U13: a seed staged word by word, in any order and with repeats, and then committed is the state:
`S[i]` is word `i` of the seed, with `pos = 0`, whatever the block held before. -/
def Obligations.StagingOrderDoesNotMatter : Prop :=
  ∀ (w : Bank) (order : List Index) (s : State), (∀ i : Index, i ∈ order) →
    ∃ t, runCommands (order.map (fun i => ⟨0x30 ||| i.setWidth 8, bankRead w i⟩) ++ [⟨0x40, 0⟩]) s =
        .next (t, List.replicate (order.length + 1) ⟨0b00, 0⟩) ∧
      t.S = w ∧ t.pos = 0 ∧ t.seeded = true ∧ t.mask = 0x0000#16

/-- R125: `SETSEED` is SEEDW 0 to SEEDW 15 and COMMIT, 17 commands; they all report OK and leave `S[i] = seed[i]` with
`pos = 0`. -/
def Obligations.SetSeedLoadsTheSeed : Prop :=
  ∀ (w : Bank) (s : State), ∃ t,
    (setSeedCommands w).length = 17 ∧
    (∀ k < 16, (setSeedCommands w)[k]? = some ⟨BitVec.ofNat 8 (0x30 + k), bankRead w (BitVec.ofNat 4 k)⟩) ∧
    (setSeedCommands w)[16]? = some ⟨0x40, 0⟩ ∧
    runCommands (setSeedCommands w) s = .next (t, List.replicate 17 ⟨0b00, 0⟩) ∧
    t.S = w ∧ t.pos = 0 ∧ t.seeded = true

/-- R126: `GETSTATE` returns the 16 words in index order and then the status word, whose POS field is the position, and
leaves the state as it was. -/
def Obligations.GetStateReturnsWordsAndPosition : Prop :=
  ∀ s : State, s.seeded = true → ∃ t rs, runCommands getStateCommands s = .next (t, rs) ∧ rs.length = 17 ∧
    (∀ i : Index, rs[i.toNat]? = some ⟨0b00, s.readS i⟩) ∧
    (∃ r, rs[16]? = some r ∧ r.st = 0b00 ∧ r.dat.setWidth 4 = s.pos) ∧ s.SameButResponse t

/-- R127: resumption. `RESTORE` of the words and the position of one moment, on any block in any state, makes that block
draw exactly what the original draws from that moment; loading the words themselves does so when the position was 0, and
there is a case with another position where it does not. -/
def Obligations.RestoreResumesTheStream : Prop :=
  (∀ (s t : State) (n : Nat), s.seeded = true → ∃ t' s' t'' rs,
    runCommands (restoreCommands s.pos s.S) t = .next (t', List.replicate 17 ⟨0b00, 0⟩) ∧ t'.pos = 0 ∧
    (∀ i : Index, t'.readS i = s.readS (i + s.pos)) ∧
    runCommands (List.replicate n ⟨0x10, 0⟩) s = .next (s', rs) ∧
    runCommands (List.replicate n ⟨0x10, 0⟩) t' = .next (t'', rs)) ∧
  (∀ (s t : State) (n : Nat), s.seeded = true → s.pos = 0 → ∃ t' s' t'' rs,
    runCommands (setSeedCommands s.S) t = .next (t', List.replicate 17 ⟨0b00, 0⟩) ∧
    runCommands (List.replicate n ⟨0x10, 0⟩) s = .next (s', rs) ∧
    runCommands (List.replicate n ⟨0x10, 0⟩) t' = .next (t'', rs)) ∧
  (∃ s t t' s' t'' rs rs', s.seeded = true ∧ s.pos ≠ 0 ∧
    runCommands (setSeedCommands s.S) t = .next (t', List.replicate 17 ⟨0b00, 0⟩) ∧
    runCommands [⟨0x10, 0⟩] s = .next (s', rs) ∧ runCommands [⟨0x10, 0⟩] t' = .next (t'', rs') ∧ rs ≠ rs')

/-! ### 60_exceptions.md -/

/-- R160: an error is reported in the response of its own command alone: what a command does and answers depends on no
earlier response, and a command that answers never stops the block. -/
def Obligations.ErrorsAreNotSticky : Prop :=
  ∀ (c : Command) (s u : State), s.SameButResponse u →
    ∃ t v, perform c s = .next t ∧ perform c u = .next v ∧ t.SameButResponse v ∧
      t.rspPending = true ∧ v.rspPending = true ∧ v.rspSt = t.rspSt ∧ v.rspDat = t.rspDat

/-- R161, R163: which command answers which status. A reserved code answers ERR_ILLEGAL whatever `seeded` or `mask`
hold; NEXT and GETW answer ERR_UNSEEDED exactly while `seeded = 0`; COMMIT answers ERR_SEED_INCOMPLETE exactly while
`mask != 0xFFFF`; everything else answers OK. An error records data 0. Reset takes priority over any command. -/
def Obligations.StatusOfEveryCommand : Prop :=
  (∀ (c : Command) (s : State), ∃ t, perform c s = .next t ∧ t.rspPending = true ∧
    (t.rspSt = 0b01 ↔ ¬ ∃ i, decode c = .ok i) ∧
    (t.rspSt = 0b10 ↔ s.seeded = false ∧ (decode c = .ok .next ∨ ∃ i, decode c = .ok (.getw i))) ∧
    (t.rspSt = 0b11 ↔ s.mask ≠ 0xFFFF#16 ∧ decode c = .ok .commit) ∧
    (t.rspSt ≠ 0b00 → t.rspDat = 0)) ∧
  (∀ (e : Edge) (c : Command) (s : State), e.rst = true →
    accepts e s = false ∧ clockEdge { e with cmdValid := true, cmdCode := c.code, cmdData := c.data } s = clockEdge e s)

/-- R162: a command that raises an error changes no state other than the response register, which carries data 0; once
the response is taken the block can take the next command. -/
def Obligations.ErrorsChangeOnlyTheResponse : Prop :=
  ∀ (c : Command) (s t : State), perform c s = .next t → t.rspSt ≠ 0b00 →
    t.S = s.S ∧ t.pos = s.pos ∧ t.seeded = s.seeded ∧ t.Stage = s.Stage ∧ t.mask = s.mask ∧ t.Responded t.rspSt 0 ∧
    ∀ e : Edge, e.rst = false → e.cmdValid = true → e.readyChoice = true → accepts e t.takeResponse = true

/-! ### 70_reset_and_hazards.md -/

/-- R180: from any state, one reset edge or more leaves `pos`, `seeded`, `mask` and `rsp_pending` 0, and no value in
`S`, `Stage` and the response register; while `rst = 1`, `cmd_ready` and `rsp_valid` are 0. (That "no value" is what the
held views answer is the model's choice, assumption 10.) -/
def Obligations.ResetEdgesGiveTheResetValues : Prop :=
  (∀ (e : Edge) (es : List Edge) (s : State), e.rst = true → (∀ x ∈ es, x.rst = true) →
    ∃ t evs, runEdges (e :: es) s = .next (t, evs) ∧ t.pos = 0 ∧ t.seeded = false ∧ t.mask = 0x0000#16 ∧
      t.rspPending = false ∧ t.heldResponse = none ∧
      ∀ i : Index, t.heldWord i = none ∧ t.heldStage i = none) ∧
  (∀ (e : Edge) (s : State), e.rst = true → cmdReady e s = false ∧ rspValid e s = false ∧ rspPort e s = none)

/-- R181: at a reset edge no command is accepted and no response is taken; a pending response is lost; `S` and `Stage`
are not rewritten; and what they hold is then unobservable: no later edges show it. -/
def Obligations.ResetDropsTheResponseAndKeepsTheBanks : Prop :=
  (∀ (e : Edge) (s : State), e.rst = true → accepts e s = false ∧ takes e s = false ∧
    ∃ t, clockEdge e s = .next t ∧ t.rspPending = false ∧ t.S = s.S ∧ t.Stage = s.Stage) ∧
  (∀ (e : Edge) (es : List Edge) (s : State) (b b' : Bank), e.rst = true →
    ∃ t u evs, runEdges (e :: es) s = .next (t, evs) ∧
      runEdges (e :: es) { s with S := b, Stage := b' } = .next (u, evs))

/-- R183: after reset, until a COMMIT succeeds, whatever commands come meanwhile, NEXT and GETW answer ERR_UNSEEDED; NOP,
SEEDW and STATUS succeed; COMMIT succeeds once all 16 words are staged and is refused before. -/
def Obligations.BeforeASeedOnlyTheseCommandsSucceed : Prop :=
  ∀ (e : Edge) (cs : List Command) (s : State), e.rst = true →
    ∃ r t rs, clockEdge e s = .next r ∧ runCommands cs r = .next (t, rs) ∧
      ((∀ (k : Nat) (c : Command) (x : Response), cs[k]? = some c → rs[k]? = some x → decode c = .ok .commit →
          x.st ≠ 0b00) →
        ∀ i : Instr, ∃ u, exec i t = .next u ∧
          (u.rspSt = 0b00 ↔ i = .nop ∨ (∃ k v, i = .seedw k v) ∨ i = .status ∨
            (i = .commit ∧ ∀ k : Index, ∃ c ∈ cs, ∃ v, decode c = .ok (.seedw k v))) ∧
          ((i = .next ∨ ∃ k, i = .getw k) → u.rspSt = 0b10) ∧
          (i = .commit → (∃ k : Index, ∀ c ∈ cs, ∀ v, decode c ≠ .ok (.seedw k v)) → u.rspSt = 0b11))

/-! ### The invariant -/

/-- Every step keeps the invariant: the position is 0 while unseeded, an error carries data 0, the cycle count runs
exactly while a response is pending (the count is the model's own, assumption 6). -/
def Obligations.EveryStepKeepsTheInvariant : Prop :=
  ∀ s t : State, s.Inv → step s = .next t → t.Inv

/-- The invariant holds right after reset. (Its clause on the cycle count holds because the count, the model's own field, is
0 there: assumption 6.) -/
def Obligations.InvariantHoldsAfterReset : Prop := State.reset.Inv

/-! ### The step of the transaction view, and the pseudo-commands -/

/-- R67 as a step: the relation between a clocked state `s` and a state `v` of the transaction view (equal but for the
response register) is kept by every edge, with the transaction the edge makes, if any. At an edge without reset, what was
pending and what that transaction answers are what the host takes and what is pending after; a reset leaves nothing
pending. -/
def Obligations.EveryEdgeKeepsTheTransactionSimulation : Prop :=
  ∀ (e : Edge) (s v : State), v.SameButResponse s → ∃ t w rs, clockEdge e s = .next t ∧
    runTransactions (transactionsOf [edgeEvent e s]) v = .next (w, rs) ∧ w.SameButResponse t ∧
    (e.rst = false → s.heldResponse.toList ++ rs = takenOf [edgeEvent e s] ++ t.heldResponse.toList) ∧
    (e.rst = true → rs = [] ∧ takenOf [edgeEvent e s] = [] ∧ t.heldResponse = none)

/-- R76: what each pseudo-command expands to, command by command, its operands in range. -/
def Obligations.PseudoCommandsExpandAsListed : Prop :=
  (∀ w : List Nat, (AsmLine.setseed w).wellFormed = true →
    (assemble (.setseed w)).length = 17 ∧ (assemble (.setseed w))[16]? = some ⟨0x40, 0⟩ ∧
    ∀ i < 16, ∃ c, (assemble (.setseed w))[i]? = some c ∧ c.code.toNat = 0x30 + i ∧ w[i]? = some c.data.toNat) ∧
  ((assemble .getstate).length = 17 ∧ (assemble .getstate)[16]? = some ⟨0x50, 0⟩ ∧
    ∀ i < 16, ∃ c, (assemble .getstate)[i]? = some c ∧ c.code.toNat = 0x20 + i ∧ c.data = 0) ∧
  (∀ (p : Nat) (g : List Nat), (AsmLine.restore p g).wellFormed = true →
    (assemble (.restore p g)).length = 17 ∧ (assemble (.restore p g))[16]? = some ⟨0x40, 0⟩ ∧
    ∀ i < 16, ∃ c, (assemble (.restore p g))[i]? = some c ∧ c.code.toNat = 0x30 + i ∧
      g[(i + p) % 16]? = some c.data.toNat) ∧
  (∀ n : Nat, assemble (.draw n) = List.replicate n ⟨0x10, 0⟩)
end

