-- ==== Sys2Proof/Laws/Decode.lean ====
section
/-! SUPPORT. The two fields of a code, and the one spec lemma of the decoder: what a command decodes to, by its
fields. -/

namespace Sys2Proof

@[simp] theorem opField_mkCode (op : BitVec 4) (idx : Index) : opField (mkCode op idx) = op := by
  revert op idx; decide

@[simp] theorem idxField_mkCode (op : BitVec 4) (idx : Index) : idxField (mkCode op idx) = idx := by
  revert op idx; decide

@[simp] theorem mkCode_fields (code : BitVec 8) : mkCode (opField code) (idxField code) = code := by
  revert code; decide

theorem decode_nopCode (d : Word) : decode ⟨mkCode 0x0 0x0, d⟩ = .ok .nop := by simp [decode]

theorem decode_nextCode (d : Word) : decode ⟨mkCode 0x1 0x0, d⟩ = .ok .next := by simp [decode]

theorem decode_getwCode (i : Index) (d : Word) : decode ⟨mkCode 0x2 i, d⟩ = .ok (.getw i) := by simp [decode]

theorem decode_seedwCode (i : Index) (d : Word) : decode ⟨mkCode 0x3 i, d⟩ = .ok (.seedw i d) := by simp [decode]

theorem decode_commitCode (d : Word) : decode ⟨mkCode 0x4 0x0, d⟩ = .ok .commit := by simp [decode]

theorem decode_statusCode (d : Word) : decode ⟨mkCode 0x5 0x0, d⟩ = .ok .status := by simp [decode]

/-- Everything an accepted code can be: if the decoder answers an instruction, the code is that instruction's. -/
theorem decode_ok_cases {c : Command} {i : Instr} (h : decode c = .ok i) :
    (c.code = mkCode 0x0 0x0 ∧ i = .nop) ∨ (c.code = mkCode 0x1 0x0 ∧ i = .next) ∨
    (∃ k, c.code = mkCode 0x2 k ∧ i = .getw k) ∨ (∃ k, c.code = mkCode 0x3 k ∧ i = .seedw k c.data) ∨
    (c.code = mkCode 0x4 0x0 ∧ i = .commit) ∨ (c.code = mkCode 0x5 0x0 ∧ i = .status) := by
  have hc := mkCode_fields c.code
  unfold decode at h
  split at h
  · next g => rw [g.1, g.2] at hc; simp_all
  split at h
  · next g => rw [g.1, g.2] at hc; simp_all
  split at h
  · next g => rw [g] at hc; exact .inr (.inr (.inl ⟨_, hc.symm, by simpa using h.symm⟩))
  split at h
  · next g => rw [g] at hc; exact .inr (.inr (.inr (.inl ⟨_, hc.symm, by simpa using h.symm⟩)))
  split at h
  · next g => rw [g.1, g.2] at hc; simp_all
  split at h
  · next g => rw [g.1, g.2] at hc; simp_all
  · cases h

end Sys2Proof
end

