-- ==== Sys2Proof/Laws/State.lean ====
section
/-! SUPPORT. One lemma for each field of the state and each update of it, true by rfl: no later proof unfolds a record
update. -/

namespace Sys2Proof.Machine

variable (s : State)

@[simp] theorem State.writeS_S (i : Index) (v : Word) : (s.writeS i v).S = bankWrite s.S i v := rfl
@[simp] theorem State.writeS_pos (i : Index) (v : Word) : (s.writeS i v).pos = s.pos := rfl
@[simp] theorem State.writeS_seeded (i : Index) (v : Word) : (s.writeS i v).seeded = s.seeded := rfl
@[simp] theorem State.writeS_Stage (i : Index) (v : Word) : (s.writeS i v).Stage = s.Stage := rfl
@[simp] theorem State.writeS_mask (i : Index) (v : Word) : (s.writeS i v).mask = s.mask := rfl
@[simp] theorem State.writeS_rspPending (i : Index) (v : Word) : (s.writeS i v).rspPending = s.rspPending := rfl
@[simp] theorem State.writeS_rspSt (i : Index) (v : Word) : (s.writeS i v).rspSt = s.rspSt := rfl
@[simp] theorem State.writeS_rspDat (i : Index) (v : Word) : (s.writeS i v).rspDat = s.rspDat := rfl
@[simp] theorem State.writeS_rspAge (i : Index) (v : Word) : (s.writeS i v).rspAge = s.rspAge := rfl
@[simp] theorem State.writeS_freeCount (i : Index) (v : Word) : (s.writeS i v).freeCount = s.freeCount := rfl
@[simp] theorem State.writeS_edges (i : Index) (v : Word) : (s.writeS i v).edges = s.edges := rfl

@[simp] theorem State.loadS_S (b : Bank) : (s.loadS b).S = b := rfl
@[simp] theorem State.loadS_pos (b : Bank) : (s.loadS b).pos = s.pos := rfl
@[simp] theorem State.loadS_seeded (b : Bank) : (s.loadS b).seeded = s.seeded := rfl
@[simp] theorem State.loadS_Stage (b : Bank) : (s.loadS b).Stage = s.Stage := rfl
@[simp] theorem State.loadS_mask (b : Bank) : (s.loadS b).mask = s.mask := rfl
@[simp] theorem State.loadS_rspPending (b : Bank) : (s.loadS b).rspPending = s.rspPending := rfl
@[simp] theorem State.loadS_rspSt (b : Bank) : (s.loadS b).rspSt = s.rspSt := rfl
@[simp] theorem State.loadS_rspDat (b : Bank) : (s.loadS b).rspDat = s.rspDat := rfl
@[simp] theorem State.loadS_rspAge (b : Bank) : (s.loadS b).rspAge = s.rspAge := rfl
@[simp] theorem State.loadS_freeCount (b : Bank) : (s.loadS b).freeCount = s.freeCount := rfl
@[simp] theorem State.loadS_edges (b : Bank) : (s.loadS b).edges = s.edges := rfl

@[simp] theorem State.writeStage_S (i : Index) (v : Word) : (s.writeStage i v).S = s.S := rfl
@[simp] theorem State.writeStage_pos (i : Index) (v : Word) : (s.writeStage i v).pos = s.pos := rfl
@[simp] theorem State.writeStage_seeded (i : Index) (v : Word) : (s.writeStage i v).seeded = s.seeded := rfl
@[simp] theorem State.writeStage_Stage (i : Index) (v : Word) : (s.writeStage i v).Stage = bankWrite s.Stage i v := rfl
@[simp] theorem State.writeStage_mask (i : Index) (v : Word) : (s.writeStage i v).mask = s.mask := rfl
@[simp] theorem State.writeStage_rspPending (i : Index) (v : Word) : (s.writeStage i v).rspPending = s.rspPending := rfl
@[simp] theorem State.writeStage_rspSt (i : Index) (v : Word) : (s.writeStage i v).rspSt = s.rspSt := rfl
@[simp] theorem State.writeStage_rspDat (i : Index) (v : Word) : (s.writeStage i v).rspDat = s.rspDat := rfl
@[simp] theorem State.writeStage_rspAge (i : Index) (v : Word) : (s.writeStage i v).rspAge = s.rspAge := rfl
@[simp] theorem State.writeStage_freeCount (i : Index) (v : Word) : (s.writeStage i v).freeCount = s.freeCount := rfl
@[simp] theorem State.writeStage_edges (i : Index) (v : Word) : (s.writeStage i v).edges = s.edges := rfl

@[simp] theorem State.setPos_S (p : Index) : (s.setPos p).S = s.S := rfl
@[simp] theorem State.setPos_pos (p : Index) : (s.setPos p).pos = p := rfl
@[simp] theorem State.setPos_seeded (p : Index) : (s.setPos p).seeded = s.seeded := rfl
@[simp] theorem State.setPos_Stage (p : Index) : (s.setPos p).Stage = s.Stage := rfl
@[simp] theorem State.setPos_mask (p : Index) : (s.setPos p).mask = s.mask := rfl
@[simp] theorem State.setPos_rspPending (p : Index) : (s.setPos p).rspPending = s.rspPending := rfl
@[simp] theorem State.setPos_rspSt (p : Index) : (s.setPos p).rspSt = s.rspSt := rfl
@[simp] theorem State.setPos_rspDat (p : Index) : (s.setPos p).rspDat = s.rspDat := rfl
@[simp] theorem State.setPos_rspAge (p : Index) : (s.setPos p).rspAge = s.rspAge := rfl
@[simp] theorem State.setPos_freeCount (p : Index) : (s.setPos p).freeCount = s.freeCount := rfl
@[simp] theorem State.setPos_edges (p : Index) : (s.setPos p).edges = s.edges := rfl

@[simp] theorem State.setSeeded_S (b : Bool) : (s.setSeeded b).S = s.S := rfl
@[simp] theorem State.setSeeded_pos (b : Bool) : (s.setSeeded b).pos = s.pos := rfl
@[simp] theorem State.setSeeded_seeded (b : Bool) : (s.setSeeded b).seeded = b := rfl
@[simp] theorem State.setSeeded_Stage (b : Bool) : (s.setSeeded b).Stage = s.Stage := rfl
@[simp] theorem State.setSeeded_mask (b : Bool) : (s.setSeeded b).mask = s.mask := rfl
@[simp] theorem State.setSeeded_rspPending (b : Bool) : (s.setSeeded b).rspPending = s.rspPending := rfl
@[simp] theorem State.setSeeded_rspSt (b : Bool) : (s.setSeeded b).rspSt = s.rspSt := rfl
@[simp] theorem State.setSeeded_rspDat (b : Bool) : (s.setSeeded b).rspDat = s.rspDat := rfl
@[simp] theorem State.setSeeded_rspAge (b : Bool) : (s.setSeeded b).rspAge = s.rspAge := rfl
@[simp] theorem State.setSeeded_freeCount (b : Bool) : (s.setSeeded b).freeCount = s.freeCount := rfl
@[simp] theorem State.setSeeded_edges (b : Bool) : (s.setSeeded b).edges = s.edges := rfl

@[simp] theorem State.setMask_S (m : BitVec 16) : (s.setMask m).S = s.S := rfl
@[simp] theorem State.setMask_pos (m : BitVec 16) : (s.setMask m).pos = s.pos := rfl
@[simp] theorem State.setMask_seeded (m : BitVec 16) : (s.setMask m).seeded = s.seeded := rfl
@[simp] theorem State.setMask_Stage (m : BitVec 16) : (s.setMask m).Stage = s.Stage := rfl
@[simp] theorem State.setMask_mask (m : BitVec 16) : (s.setMask m).mask = m := rfl
@[simp] theorem State.setMask_rspPending (m : BitVec 16) : (s.setMask m).rspPending = s.rspPending := rfl
@[simp] theorem State.setMask_rspSt (m : BitVec 16) : (s.setMask m).rspSt = s.rspSt := rfl
@[simp] theorem State.setMask_rspDat (m : BitVec 16) : (s.setMask m).rspDat = s.rspDat := rfl
@[simp] theorem State.setMask_rspAge (m : BitVec 16) : (s.setMask m).rspAge = s.rspAge := rfl
@[simp] theorem State.setMask_freeCount (m : BitVec 16) : (s.setMask m).freeCount = s.freeCount := rfl
@[simp] theorem State.setMask_edges (m : BitVec 16) : (s.setMask m).edges = s.edges := rfl

@[simp] theorem State.setMaskBit_S (i : Index) : (s.setMaskBit i).S = s.S := rfl
@[simp] theorem State.setMaskBit_pos (i : Index) : (s.setMaskBit i).pos = s.pos := rfl
@[simp] theorem State.setMaskBit_seeded (i : Index) : (s.setMaskBit i).seeded = s.seeded := rfl
@[simp] theorem State.setMaskBit_Stage (i : Index) : (s.setMaskBit i).Stage = s.Stage := rfl
@[simp] theorem State.setMaskBit_mask (i : Index) : (s.setMaskBit i).mask = maskWith s.mask i := rfl
@[simp] theorem State.setMaskBit_rspPending (i : Index) : (s.setMaskBit i).rspPending = s.rspPending := rfl
@[simp] theorem State.setMaskBit_rspSt (i : Index) : (s.setMaskBit i).rspSt = s.rspSt := rfl
@[simp] theorem State.setMaskBit_rspDat (i : Index) : (s.setMaskBit i).rspDat = s.rspDat := rfl
@[simp] theorem State.setMaskBit_rspAge (i : Index) : (s.setMaskBit i).rspAge = s.rspAge := rfl
@[simp] theorem State.setMaskBit_freeCount (i : Index) : (s.setMaskBit i).freeCount = s.freeCount := rfl
@[simp] theorem State.setMaskBit_edges (i : Index) : (s.setMaskBit i).edges = s.edges := rfl

@[simp] theorem State.respond_S (st : Status) (d : Word) : (s.respond st d).S = s.S := rfl
@[simp] theorem State.respond_pos (st : Status) (d : Word) : (s.respond st d).pos = s.pos := rfl
@[simp] theorem State.respond_seeded (st : Status) (d : Word) : (s.respond st d).seeded = s.seeded := rfl
@[simp] theorem State.respond_Stage (st : Status) (d : Word) : (s.respond st d).Stage = s.Stage := rfl
@[simp] theorem State.respond_mask (st : Status) (d : Word) : (s.respond st d).mask = s.mask := rfl
@[simp] theorem State.respond_rspPending (st : Status) (d : Word) : (s.respond st d).rspPending = true := rfl
@[simp] theorem State.respond_rspSt (st : Status) (d : Word) : (s.respond st d).rspSt = st.code := rfl
@[simp] theorem State.respond_rspDat (st : Status) (d : Word) : (s.respond st d).rspDat = d := rfl
@[simp] theorem State.respond_rspAge (st : Status) (d : Word) : (s.respond st d).rspAge = 1 := rfl
@[simp] theorem State.respond_freeCount (st : Status) (d : Word) : (s.respond st d).freeCount = s.freeCount := rfl
@[simp] theorem State.respond_edges (st : Status) (d : Word) : (s.respond st d).edges = s.edges := rfl

@[simp] theorem State.raise_S (e : Status) : (s.raise e).S = s.S := rfl
@[simp] theorem State.raise_pos (e : Status) : (s.raise e).pos = s.pos := rfl
@[simp] theorem State.raise_seeded (e : Status) : (s.raise e).seeded = s.seeded := rfl
@[simp] theorem State.raise_Stage (e : Status) : (s.raise e).Stage = s.Stage := rfl
@[simp] theorem State.raise_mask (e : Status) : (s.raise e).mask = s.mask := rfl
@[simp] theorem State.raise_rspPending (e : Status) : (s.raise e).rspPending = true := rfl
@[simp] theorem State.raise_rspSt (e : Status) : (s.raise e).rspSt = e.code := rfl
@[simp] theorem State.raise_rspDat (e : Status) : (s.raise e).rspDat = 0 := rfl
@[simp] theorem State.raise_rspAge (e : Status) : (s.raise e).rspAge = 1 := rfl
@[simp] theorem State.raise_freeCount (e : Status) : (s.raise e).freeCount = s.freeCount := rfl
@[simp] theorem State.raise_edges (e : Status) : (s.raise e).edges = s.edges := rfl

@[simp] theorem State.takeResponse_S : (s.takeResponse).S = s.S := rfl
@[simp] theorem State.takeResponse_pos : (s.takeResponse).pos = s.pos := rfl
@[simp] theorem State.takeResponse_seeded : (s.takeResponse).seeded = s.seeded := rfl
@[simp] theorem State.takeResponse_Stage : (s.takeResponse).Stage = s.Stage := rfl
@[simp] theorem State.takeResponse_mask : (s.takeResponse).mask = s.mask := rfl
@[simp] theorem State.takeResponse_rspPending : (s.takeResponse).rspPending = false := rfl
@[simp] theorem State.takeResponse_rspSt : (s.takeResponse).rspSt = s.rspSt := rfl
@[simp] theorem State.takeResponse_rspDat : (s.takeResponse).rspDat = s.rspDat := rfl
@[simp] theorem State.takeResponse_rspAge : (s.takeResponse).rspAge = 0 := rfl
@[simp] theorem State.takeResponse_freeCount : (s.takeResponse).freeCount = s.freeCount := rfl
@[simp] theorem State.takeResponse_edges : (s.takeResponse).edges = s.edges := rfl

@[simp] theorem State.resetEdge_S : (s.resetEdge).S = s.S := rfl
@[simp] theorem State.resetEdge_pos : (s.resetEdge).pos = 0 := rfl
@[simp] theorem State.resetEdge_seeded : (s.resetEdge).seeded = false := rfl
@[simp] theorem State.resetEdge_Stage : (s.resetEdge).Stage = s.Stage := rfl
@[simp] theorem State.resetEdge_mask : (s.resetEdge).mask = 0 := rfl
@[simp] theorem State.resetEdge_rspPending : (s.resetEdge).rspPending = false := rfl
@[simp] theorem State.resetEdge_rspSt : (s.resetEdge).rspSt = Config.freeRspSt s.freeCount := rfl
@[simp] theorem State.resetEdge_rspDat : (s.resetEdge).rspDat = Config.freeRspDat s.freeCount := rfl
@[simp] theorem State.resetEdge_rspAge : (s.resetEdge).rspAge = 0 := rfl
@[simp] theorem State.resetEdge_freeCount : (s.resetEdge).freeCount = s.freeCount + 1 := rfl
@[simp] theorem State.resetEdge_edges : (s.resetEdge).edges = s.edges := rfl

@[simp] theorem State.setEdges_S (es : List Edge) : (s.setEdges es).S = s.S := rfl
@[simp] theorem State.setEdges_pos (es : List Edge) : (s.setEdges es).pos = s.pos := rfl
@[simp] theorem State.setEdges_seeded (es : List Edge) : (s.setEdges es).seeded = s.seeded := rfl
@[simp] theorem State.setEdges_Stage (es : List Edge) : (s.setEdges es).Stage = s.Stage := rfl
@[simp] theorem State.setEdges_mask (es : List Edge) : (s.setEdges es).mask = s.mask := rfl
@[simp] theorem State.setEdges_rspPending (es : List Edge) : (s.setEdges es).rspPending = s.rspPending := rfl
@[simp] theorem State.setEdges_rspSt (es : List Edge) : (s.setEdges es).rspSt = s.rspSt := rfl
@[simp] theorem State.setEdges_rspDat (es : List Edge) : (s.setEdges es).rspDat = s.rspDat := rfl
@[simp] theorem State.setEdges_rspAge (es : List Edge) : (s.setEdges es).rspAge = s.rspAge := rfl
@[simp] theorem State.setEdges_freeCount (es : List Edge) : (s.setEdges es).freeCount = s.freeCount := rfl
@[simp] theorem State.setEdges_edges (es : List Edge) : (s.setEdges es).edges = es := rfl

@[simp] theorem State.offer_S (c : Command) : (s.offer c).S = s.S := rfl
@[simp] theorem State.offer_pos (c : Command) : (s.offer c).pos = s.pos := rfl
@[simp] theorem State.offer_seeded (c : Command) : (s.offer c).seeded = s.seeded := rfl
@[simp] theorem State.offer_Stage (c : Command) : (s.offer c).Stage = s.Stage := rfl
@[simp] theorem State.offer_mask (c : Command) : (s.offer c).mask = s.mask := rfl
@[simp] theorem State.offer_rspPending (c : Command) : (s.offer c).rspPending = false := rfl
@[simp] theorem State.offer_rspSt (c : Command) : (s.offer c).rspSt = s.rspSt := rfl
@[simp] theorem State.offer_rspDat (c : Command) : (s.offer c).rspDat = s.rspDat := rfl
@[simp] theorem State.offer_rspAge (c : Command) : (s.offer c).rspAge = 0 := rfl
@[simp] theorem State.offer_freeCount (c : Command) : (s.offer c).freeCount = s.freeCount := rfl
@[simp] theorem State.offer_edges (c : Command) : (s.offer c).edges = offerEdge c :: s.edges := rfl

@[simp] theorem State.passCycle_S : s.passCycle.S = s.S := by
  unfold State.passCycle; split <;> rfl
@[simp] theorem State.passCycle_pos : s.passCycle.pos = s.pos := by
  unfold State.passCycle; split <;> rfl
@[simp] theorem State.passCycle_seeded : s.passCycle.seeded = s.seeded := by
  unfold State.passCycle; split <;> rfl
@[simp] theorem State.passCycle_Stage : s.passCycle.Stage = s.Stage := by
  unfold State.passCycle; split <;> rfl
@[simp] theorem State.passCycle_mask : s.passCycle.mask = s.mask := by
  unfold State.passCycle; split <;> rfl
@[simp] theorem State.passCycle_rspPending : s.passCycle.rspPending = s.rspPending := by
  unfold State.passCycle; split <;> rfl
@[simp] theorem State.passCycle_rspSt : s.passCycle.rspSt = s.rspSt := by
  unfold State.passCycle; split <;> rfl
@[simp] theorem State.passCycle_rspDat : s.passCycle.rspDat = s.rspDat := by
  unfold State.passCycle; split <;> rfl
@[simp] theorem State.passCycle_rspAge :
    s.passCycle.rspAge = if s.rspPending then s.rspAge + 1 else s.rspAge := by
  unfold State.passCycle; split <;> rfl
@[simp] theorem State.passCycle_freeCount : s.passCycle.freeCount = s.freeCount := by
  unfold State.passCycle; split <;> rfl
@[simp] theorem State.passCycle_edges : s.passCycle.edges = s.edges := by
  unfold State.passCycle; split <;> rfl

end Sys2Proof.Machine
end

