-- ==== Sys2Proof/Laws/Storage.lean ====
section
/-! SUPPORT. Reads after writes in a bank and in the staged mask, and what the two views of storage answer. -/

namespace Sys2Proof.Machine

@[simp] theorem bankRead_bankWrite_same (b : Bank) (i : Index) (v : Word) :
    bankRead (bankWrite b i v) i = v := by
  simp [bankRead, bankWrite]

theorem bankRead_bankWrite_other (b : Bank) {i j : Index} (v : Word) (h : j ≠ i) :
    bankRead (bankWrite b i v) j = bankRead b j := by
  have hne : i.toNat ≠ j.toNat := fun e => h (BitVec.eq_of_toNat_eq e.symm)
  simp [bankRead, bankWrite, hne]

theorem bankRead_bankWrite (b : Bank) (i j : Index) (v : Word) :
    bankRead (bankWrite b i v) j = if j = i then v else bankRead b j := by
  by_cases h : j = i
  · subst h; simp
  · simp [h, bankRead_bankWrite_other]

theorem bank_ext {b c : Bank} (h : ∀ i : Index, bankRead b i = bankRead c i) : b = c := by
  apply Vector.ext
  intro k hk
  have := h (BitVec.ofNat 4 k)
  have hk' : (BitVec.ofNat 4 k).toNat = k := by simp; omega
  simpa only [bankRead, hk'] using this

@[simp] theorem State.readS_writeS (s : State) (k i : Index) (v : Word) :
    (s.writeS k v).readS i = if i = k then v else s.readS i := bankRead_bankWrite _ _ _ _

@[simp] theorem State.readStage_writeStage (s : State) (k i : Index) (v : Word) :
    (s.writeStage k v).readStage i = if i = k then v else s.readStage i := bankRead_bankWrite _ _ _ _

@[simp] theorem State.readS_respond (s : State) (st : Status) (d : Word) (i : Index) :
    (s.respond st d).readS i = s.readS i := rfl

@[simp] theorem State.readS_setPos (s : State) (p i : Index) : (s.setPos p).readS i = s.readS i := rfl

theorem getLsbD_maskWith (m : BitVec 16) (i j : Index) :
    (maskWith m i).getLsbD j.toNat = (m.getLsbD j.toNat || decide (j = i)) := by
  have hi := i.isLt
  have hj := j.isLt
  have : (decide (j = i)) = decide (j.toNat = i.toNat) := by
    simp [BitVec.toNat_eq]
  rw [this]
  simp only [maskWith, BitVec.getLsbD_or, BitVec.getLsbD_shiftLeft, BitVec.getLsbD_one]
  by_cases h : j.toNat = i.toNat
  · simp [h]; right; omega
  · have : ¬(j.toNat < i.toNat) → ¬ (j.toNat - i.toNat = 0) := by omega
    by_cases h2 : j.toNat < i.toNat <;> simp [h, h2]
    omega

/-- The mask is full exactly when every bit of it is set (R25, R123). -/
theorem State.maskFull_iff (s : State) : s.maskFull = true ↔ ∀ i : Index, s.maskBit i = true := by
  simp only [State.maskFull, State.maskBit, beq_iff_eq]
  constructor
  · intro h i
    have hi := i.isLt
    rw [h]
    revert i
    decide
  · intro h
    apply BitVec.eq_of_getLsbD_eq
    intro k hk
    have := h (BitVec.ofNat 4 k)
    have hk' : (BitVec.ofNat 4 k).toNat = k := by simp; omega
    rw [hk'] at this
    rw [this]
    interval_cases k <;> rfl

@[simp] theorem nextPos_ne (p : Index) : nextPos p ≠ p := by
  unfold nextPos; bv_omega

@[simp] theorem ne_nextPos (p : Index) : p ≠ nextPos p := fun h => nextPos_ne p h.symm

end Sys2Proof.Machine
end

