-- ==== Sys2Proof/Laws/Ops.lean ====
section
/-! SUPPORT. Spec lemmas of the shared operations and of the meanings: everything each can do, said once, for the
provers to cite instead of unfolding them. -/

namespace Sys2Proof.Machine

/-! ### Bringing the response register along -/

theorem State.SameButResponse.refl (s : State) : s.SameButResponse s := ⟨rfl, rfl, rfl, rfl, rfl, rfl, rfl⟩

theorem State.SameButResponse.trans {s t u : State} (h : s.SameButResponse t) (k : t.SameButResponse u) :
    s.SameButResponse u :=
  ⟨k.S.trans h.S, k.pos.trans h.pos, k.seeded.trans h.seeded, k.Stage.trans h.Stage, k.mask.trans h.mask,
    k.freeCount.trans h.freeCount, k.edges.trans h.edges⟩

theorem State.respond_sameButResponse (s : State) (st : Status) (d : Word) : s.SameButResponse (s.respond st d) :=
  ⟨rfl, rfl, rfl, rfl, rfl, rfl, rfl⟩

theorem State.raise_sameButResponse (s : State) (e : Status) : s.SameButResponse (s.raise e) :=
  s.respond_sameButResponse e 0

theorem State.takeResponse_sameButResponse (s : State) : s.SameButResponse s.takeResponse :=
  ⟨rfl, rfl, rfl, rfl, rfl, rfl, rfl⟩

theorem State.passCycle_sameButResponse (s : State) : s.SameButResponse s.passCycle :=
  ⟨by simp, by simp, by simp, by simp, by simp, by simp, by simp⟩

/-! ### The meanings -/

theorem execNext_seeded {s : State} (h : s.seeded = true) :
    execNext s = .next (((s.setPos (nextPos s.pos)).writeS (nextPos s.pos)
      (mix (s.readS s.pos) (s.readS (nextPos s.pos)))).respond .ok
      (scramble (mix (s.readS s.pos) (s.readS (nextPos s.pos))))) := by
  simp [execNext, h, State.readS, State.writeS, State.setPos]

theorem execNext_unseeded {s : State} (h : s.seeded = false) : execNext s = .next (s.raise .errUnseeded) := by
  simp [execNext, h]

theorem execGetw_seeded {s : State} (h : s.seeded = true) (i : Index) :
    execGetw i s = .next (s.respond .ok (s.readS i)) := by
  simp [execGetw, h]

theorem execGetw_unseeded {s : State} (h : s.seeded = false) (i : Index) :
    execGetw i s = .next (s.raise .errUnseeded) := by
  simp [execGetw, h]

theorem execCommit_full {s : State} (h : s.maskFull = true) :
    execCommit s = .next (((((s.loadS s.Stage).setPos 0).setSeeded true).setMask 0).respond .ok 0) := by
  simp [execCommit, h]

theorem execCommit_incomplete {s : State} (h : s.maskFull = false) :
    execCommit s = .next (s.raise .errSeedIncomplete) := by
  simp [execCommit, h]

/-- Everything a command can do: it raises an error, or it is one of the six commands performed. -/
theorem exec_cases (i : Instr) (s : State) :
    (s.seeded = false ∧ (i = .next ∨ ∃ k, i = .getw k) ∧ exec i s = .next (s.raise .errUnseeded)) ∨
    (s.maskFull = false ∧ i = .commit ∧ exec i s = .next (s.raise .errSeedIncomplete)) ∨
    (i = .nop ∧ exec i s = .next (s.respond .ok 0)) ∨
    (s.seeded = true ∧ i = .next ∧ exec i s = .next (((s.setPos (nextPos s.pos)).writeS (nextPos s.pos)
      (mix (s.readS s.pos) (s.readS (nextPos s.pos)))).respond .ok
      (scramble (mix (s.readS s.pos) (s.readS (nextPos s.pos)))))) ∨
    (s.seeded = true ∧ ∃ k, i = .getw k ∧ exec i s = .next (s.respond .ok (s.readS k))) ∨
    (∃ k v, i = .seedw k v ∧ exec i s = .next (((s.writeStage k v).setMaskBit k).respond .ok 0)) ∨
    (s.maskFull = true ∧ i = .commit ∧
      exec i s = .next (((((s.loadS s.Stage).setPos 0).setSeeded true).setMask 0).respond .ok 0)) ∨
    (i = .status ∧ exec i s = .next (s.respond .ok s.statusWord)) := by
  cases i with
  | nop => exact .inr (.inr (.inl ⟨rfl, rfl⟩))
  | next =>
    cases h : s.seeded
    · exact .inl ⟨rfl, .inl rfl, execNext_unseeded h⟩
    · exact .inr (.inr (.inr (.inl ⟨rfl, rfl, execNext_seeded h⟩)))
  | getw k =>
    cases h : s.seeded
    · exact .inl ⟨rfl, .inr ⟨k, rfl⟩, execGetw_unseeded h k⟩
    · exact .inr (.inr (.inr (.inr (.inl ⟨rfl, k, rfl, execGetw_seeded h k⟩))))
  | seedw k v => exact .inr (.inr (.inr (.inr (.inr (.inl ⟨k, v, rfl, rfl⟩)))))
  | commit =>
    cases h : s.maskFull
    · exact .inr (.inl ⟨rfl, rfl, execCommit_incomplete h⟩)
    · exact .inr (.inr (.inr (.inr (.inr (.inr (.inl ⟨rfl, rfl, execCommit_full h⟩))))))
  | status => exact .inr (.inr (.inr (.inr (.inr (.inr (.inr ⟨rfl, rfl⟩))))))

/-- No command stops the machine (R160): each answers a next state with a response pending (R64). -/
theorem exec_next (i : Instr) (s : State) :
    ∃ t, exec i s = .next t ∧ t.rspPending = true ∧ t.rspAge = 1 ∧ t.edges = s.edges ∧ t.freeCount = s.freeCount := by
  rcases exec_cases i s with ⟨_, _, h⟩ | ⟨_, _, h⟩ | ⟨_, h⟩ | ⟨_, _, h⟩ | ⟨_, _, _, h⟩ | ⟨_, _, _, h⟩ | ⟨_, _, h⟩ | ⟨_, h⟩ <;>
    exact ⟨_, h, rfl, rfl, rfl, rfl⟩

/-- What an accepted command does: the instruction it decodes to, or ERR_ILLEGAL. -/
theorem perform_cases (c : Command) (s : State) :
    (∃ i, decode c = .ok i ∧ perform c s = exec i s) ∨
    (∃ r, decode c = .error r ∧ perform c s = .next (s.raise .errIllegal)) := by
  unfold perform
  cases h : decode c with
  | ok i => exact .inl ⟨i, rfl, rfl⟩
  | error r => exact .inr ⟨r, rfl, rfl⟩

theorem perform_next (c : Command) (s : State) :
    ∃ t, perform c s = .next t ∧ t.rspPending = true ∧ t.rspAge = 1 ∧ t.edges = s.edges ∧ t.freeCount = s.freeCount := by
  rcases perform_cases c s with ⟨i, _, h⟩ | ⟨_, _, h⟩
  · rw [h]; exact exec_next i s
  · exact ⟨_, h, rfl, rfl, rfl, rfl⟩

/-- Everything an accepted command can answer, with the state it leaves: one case for each command performed and for
each error. -/
inductive PerformCase (c : Command) (s t : State) : Prop where
  | illegal (r : Reject) (h : decode c = .error r) (ht : t = s.raise .errIllegal)
  | unseeded (h : decode c = .ok .next ∨ ∃ k, decode c = .ok (.getw k)) (hs : s.seeded = false)
      (ht : t = s.raise .errUnseeded)
  | incomplete (h : decode c = .ok .commit) (hs : s.maskFull = false) (ht : t = s.raise .errSeedIncomplete)
  | nop (h : decode c = .ok .nop) (ht : t = s.respond .ok 0)
  | next (h : decode c = .ok .next) (hs : s.seeded = true)
      (ht : t = ((s.setPos (nextPos s.pos)).writeS (nextPos s.pos)
        (mix (s.readS s.pos) (s.readS (nextPos s.pos)))).respond .ok
        (scramble (mix (s.readS s.pos) (s.readS (nextPos s.pos)))))
  | getw (k : Index) (h : decode c = .ok (.getw k)) (hs : s.seeded = true) (ht : t = s.respond .ok (s.readS k))
  | seedw (k : Index) (v : Word) (h : decode c = .ok (.seedw k v))
      (ht : t = ((s.writeStage k v).setMaskBit k).respond .ok 0)
  | commit (h : decode c = .ok .commit) (hs : s.maskFull = true)
      (ht : t = ((((s.loadS s.Stage).setPos 0).setSeeded true).setMask 0).respond .ok 0)
  | status (h : decode c = .ok .status) (ht : t = s.respond .ok s.statusWord)

theorem performCase {c : Command} {s t : State} (h : perform c s = .next t) : PerformCase c s t := by
  rcases perform_cases c s with ⟨i, hd, hp⟩ | ⟨r, hd, hp⟩
  · rw [hp] at h
    rcases exec_cases i s with ⟨a, b, h'⟩ | ⟨a, b, h'⟩ | ⟨a, h'⟩ | ⟨a, b, h'⟩ | ⟨a, k, b, h'⟩ | ⟨k, v, a, h'⟩ |
      ⟨a, b, h'⟩ | ⟨a, h'⟩ <;>
    rw [h'] at h <;> injection h with h <;> subst h
    · refine .unseeded ?_ a rfl
      rcases b with rfl | ⟨k, rfl⟩
      · exact .inl hd
      · exact .inr ⟨k, hd⟩
    · subst b; exact .incomplete hd a rfl
    · subst a; exact .nop hd rfl
    · subst b; exact .next hd a rfl
    · subst b; exact .getw k hd a rfl
    · subst a; exact .seedw k v hd rfl
    · subst b; exact .commit hd a rfl
    · subst a; exact .status hd rfl
  · rw [hp] at h
    injection h with h
    exact .illegal r hd h.symm

theorem runCommands_nil (s : State) : runCommands [] s = .next (s, []) := rfl

theorem runCommands_cons {c : Command} {cs : List Command} {s t u : State} {rs : List Response}
    (h : perform c s = .next t) (h2 : runCommands cs t.takeResponse = .next (u, rs)) :
    runCommands (c :: cs) s = .next (u, ⟨t.rspSt, t.rspDat⟩ :: rs) := by
  unfold runCommands at *
  simp [runTransactions, h, h2]

theorem runEdges_cons {e : Edge} {es : List Edge} {s t u : State} {evs : List Event}
    (h : clockEdge e s = .next t) (h2 : runEdges es t = .next (u, evs)) :
    runEdges (e :: es) s = .next (u, edgeEvent e s :: evs) := by
  simp [runEdges, h, h2]

end Sys2Proof.Machine
end

