-- ==== Sys2Proof/Laws/PerInstr.lean ====
section
/-! SUPPORT. The per-instruction families: facts about an instruction as syntax, one lemma for each constructor. -/

namespace Sys2Proof.Laws

/-- The data word an encoded instruction drives: SEEDW's value, and 0 where the block ignores `cmd_data` (R69). -/
def DataWord.Statement (i : Instr) : Prop :=
  (encode i).data = 0 ∨ ∃ k v, i = .seedw k v ∧ (encode i).data = v

namespace DataWord

theorem nop : Statement .nop := .inl rfl

theorem next : Statement .next := .inl rfl

theorem getw (i : Index) : Statement (.getw i) := .inl rfl

theorem seedw (i : Index) (v : Word) : Statement (.seedw i v) := .inr ⟨i, v, rfl, rfl⟩

theorem commit : Statement .commit := .inl rfl

theorem status : Statement .status := .inl rfl

end DataWord

end Sys2Proof.Laws
end

