-- ==== Sys2Proof/Laws/Port.lean ====
section
/-! SUPPORT. Everything one rising edge can do, and what the step does with the list of edges. -/

namespace Sys2Proof.Machine

theorem accepts_iff (e : Edge) (s : State) :
    accepts e s = true ↔ e.rst = false ∧ e.cmdValid = true ∧ s.rspPending = false ∧ e.readyChoice = true := by
  simp [accepts, cmdReady]
  tauto

theorem rspValid_iff (e : Edge) (s : State) :
    rspValid e s = true ↔ e.rst = false ∧ s.rspPending = true ∧ Config.rspLatency ≤ s.rspAge := by
  simp [rspValid, and_assoc]

theorem takes_iff (e : Edge) (s : State) :
    takes e s = true ↔
      e.rst = false ∧ s.rspPending = true ∧ Config.rspLatency ≤ s.rspAge ∧ e.rspReady = true := by
  simp [takes, rspValid]
  tauto

/-- Everything a rising edge can do (R62, R65, R180). -/
theorem clockEdge_cases (e : Edge) (s : State) :
    (e.rst = true ∧ clockEdge e s = .next s.resetEdge) ∨
    (accepts e s = true ∧ clockEdge e s = perform e.command s) ∨
    (accepts e s = false ∧ takes e s = true ∧ clockEdge e s = .next s.takeResponse) ∨
    (e.rst = false ∧ accepts e s = false ∧ takes e s = false ∧ clockEdge e s = .next s.passCycle) := by
  unfold clockEdge
  cases hr : e.rst
  · cases ha : accepts e s
    · cases ht : takes e s
      · exact .inr (.inr (.inr ⟨rfl, rfl, rfl, by simp⟩))
      · exact .inr (.inr (.inl ⟨rfl, rfl, by simp⟩))
    · exact .inr (.inl ⟨rfl, by simp⟩)
  · exact .inl ⟨rfl, by simp⟩

/-- An edge never stops the machine, and it neither reads nor changes the list of edges to come. -/
theorem clockEdge_next (e : Edge) (s : State) : ∃ t, clockEdge e s = .next t ∧ t.edges = s.edges := by
  rcases clockEdge_cases e s with ⟨_, h⟩ | ⟨_, h⟩ | ⟨_, _, h⟩ | ⟨_, _, _, h⟩
  · exact ⟨_, h, rfl⟩
  · obtain ⟨t, ht, _, _, he, _⟩ := perform_next e.command s
    exact ⟨t, h.trans ht, he⟩
  · exact ⟨_, h, rfl⟩
  · exact ⟨_, h, by simp⟩

/-- Every edge answers a next state, and this is everything that state can be. -/
theorem edge_cases (e : Edge) (s : State) : ∃ t, clockEdge e s = .next t ∧
    ((e.rst = true ∧ t = s.resetEdge) ∨
     (accepts e s = true ∧ perform e.command s = .next t) ∨
     (accepts e s = false ∧ takes e s = true ∧ t = s.takeResponse) ∨
     (e.rst = false ∧ accepts e s = false ∧ takes e s = false ∧ t = s.passCycle)) := by
  rcases clockEdge_cases e s with ⟨a, h⟩ | ⟨a, h⟩ | ⟨a, b, h⟩ | ⟨a, b, c, h⟩
  · exact ⟨_, h, .inl ⟨a, rfl⟩⟩
  · obtain ⟨t, ht, _⟩ := perform_next e.command s
    exact ⟨t, h.trans ht, .inr (.inl ⟨a, ht⟩)⟩
  · exact ⟨_, h, .inr (.inr (.inl ⟨a, b, rfl⟩))⟩
  · exact ⟨_, h, .inr (.inr (.inr ⟨a, b, c, rfl⟩))⟩

@[simp] theorem State.setEdges_self (s : State) : s.setEdges s.edges = s := rfl

theorem step_nil {s : State} (h : s.edges = []) : step s = clockEdge idleEdge (s.setEdges []) := by
  simp [step, stepEdge, State.nextEdge, h]

theorem step_cons {s : State} {e : Edge} {rest : List Edge} (h : s.edges = e :: rest) :
    step s = clockEdge e (s.setEdges rest) := by
  simp [step, stepEdge, State.nextEdge, h]

/-- The next step after `offer c` performs `c`, with any pending response taken first. -/
theorem step_offer (s : State) (c : Command) : step (s.offer c) = perform c s.takeResponse := by
  simp [step, stepEdge, State.nextEdge, clockEdge, accepts, cmdReady, offerEdge, Edge.command, State.offer,
    State.takeResponse, State.setEdges]

end Sys2Proof.Machine
end

