-- ==== Sys2Proof/Tests/Slice0.lean ====
section
/-! SUPPORT. The model's own tests: words written out from the opcode map (R68), the spec's vectors
(95_test_vectors.md), the checks of WellFormed, and one witness for every statement that has hypotheses. Each expected
result is taken from the spec and named in the docstring. -/

namespace Sys2Proof.Tests

open Sys2Proof.Machine

/-- A field of the next state, if there is one. -/
def after {α : Type} (o : Host.Outcome State Fault Refusal) (f : State → α) : Option α :=
  match o with
  | .next t => some (f t)
  | .fault _ => none
  | .refused _ => none

/-- Seed A of 95_test_vectors.md: `S[0] = 1`, the rest 0. -/
def seedA : Bank := bankWrite State.reset.S 0 1

/-- Seed A loaded, position 0. -/
def seededA : State := { State.reset with S := seedA, seeded := true }

/-- All 16 words of seed A staged. -/
def stagedA : State := { State.reset with Stage := seedA, mask := 0xFFFF }

/-- A NOP's response pending in its first cycle. -/
def waiting : State := { State.reset with rspPending := true, rspAge := 1 }

/-- A response that has waited `RSP_LATENCY` cycles. -/
def offered : State := { State.reset with rspPending := true, rspDat := 7, rspAge := Config.rspLatency }

/-- An edge with `rst = 1` and a command on the port. -/
def rstEdge : Edge := { offerEdge ⟨0x10, 0⟩ with rst := true, rspReady := true }

/-- An edge at which the host takes a response. -/
def takeEdge : Edge := { idleEdge with rspReady := true }

/-- An edge at which the implementation holds `cmd_ready` low. -/
def stallEdge : Edge := { offerEdge ⟨0x00, 0⟩ with readyChoice := false }

/-! ### Decoding (R68, R73) -/

/-- `0000 0000` is NOP, whatever the data. -/
theorem test_decode_nop : decode ⟨0b00000000, 0xFFFFFFFFFFFFFFFF⟩ = .ok .nop := by decide

/-- `0001 0000` is NEXT. -/
theorem test_decode_next : decode ⟨0b00010000, 0⟩ = .ok .next := by decide

/-- `0010 iiii` is GETW i. -/
theorem test_decode_getw : decode ⟨0b00100101, 0⟩ = .ok (.getw 5) ∧ decode ⟨0b00101111, 0⟩ = .ok (.getw 15) := by decide

/-- `0011 iiii` is SEEDW i of the data word. -/
theorem test_decode_seedw :
    decode ⟨0b00110011, 5⟩ = .ok (.seedw 3 5) ∧ decode ⟨0b00111111, 0xAA⟩ = .ok (.seedw 15 0xAA) := by decide

/-- `0100 0000` is COMMIT. -/
theorem test_decode_commit : decode ⟨0b01000000, 0⟩ = .ok .commit := by decide

/-- `0101 0000` is STATUS. -/
theorem test_decode_status : decode ⟨0b01010000, 0⟩ = .ok .status := by decide

/-- The illegal codes of the decode boundaries (95_test_vectors.md section 3). -/
theorem test_decode_reserved :
    ∀ c ∈ [0x01#8, 0x0F, 0x11, 0x1F, 0x41, 0x4F, 0x51, 0x5F, 0x60, 0xFF],
      decode ⟨c, 0⟩ = .error (.reservedCode c) := by decide

/-- The rows of spec/opcode_table.json: match, mask and the operation. -/
def tableRows : List (BitVec 8 × BitVec 8 × (Index → Instr)) :=
  [(0x00, 0xFF, fun _ => .nop), (0x10, 0xFF, fun _ => .next), (0x20, 0xF0, .getw), (0x30, 0xF0, fun i => .seedw i 9),
   (0x40, 0xFF, fun _ => .commit), (0x50, 0xFF, fun _ => .status)]

/-- No two rows of the table match one code, and the decoder answers the row that matches. -/
theorem test_decode_follows_the_table : ∀ code : BitVec 8,
    (tableRows.filter fun r => code &&& r.2.1 == r.1).map (fun r => r.2.2 (code.setWidth 4)) =
      (decode ⟨code, 9⟩).toOption.toList := by decide +kernel

/-- The host's numbering: bits 7..0 are the code, bits 71..8 the data; with 8 bits the data is 0. -/
theorem test_table_word : decodeTableWord 8 0x3F = some (.seedw 15 0) ∧ decodeTableWord 8 0x60 = none ∧
    decodeTableWord 72 0x12345678F0000000AA31 = some (.seedw 1 0x345678F0000000AA) := by decide

/-- After `withFetchWord` the next step performs the command, also where a response was pending: STATUS after reset
reads 0 (V-A2), a reserved code answers ERR_ILLEGAL (V-N6). -/
theorem test_fetch_word :
    after (step (State.reset.withFetchWord 8 0x50)) State.heldResponse = some (some ⟨0b00, 0⟩) ∧
    after (step (waiting.withFetchWord 8 0x11)) State.heldResponse = some (some ⟨0b01, 0⟩) := by decide

/-! ### Commands -/

/-- V-M1 to V-M6: the mixing function and the output. -/
theorem test_next_mix_vectors :
    (mix 0 0 = 0 ∧ scramble 0 = 0) ∧ (mix 1 0 = 1 ∧ scramble 1 = 0x106689D45497FDB5) ∧
    (mix 0 1 = 0x80100001 ∧ scramble 0x80100001 = 0xD7F7D22EAFE7FDB5) ∧
    (mix 1 1 = 0x80100000 ∧ scramble 0x80100000 = 0xC791485A5B500000) ∧
    (mix 0xFFFFFFFFFFFFFFFF 0 = 0xFFFFFFFC00000000 ∧ scramble 0xFFFFFFFC00000000 = 0xADA0092C00000000) ∧
    (mix 0 0xFFFFFFFFFFFFFFFF = 0x7FF00000 ∧ scramble 0x7FF00000 = 0x8D06B55AA4B00000) := by decide

/-- V-M7 to V-M11. -/
theorem test_next_mix_vectors_dense :
    (mix 0xFFFFFFFFFFFFFFFF 0xFFFFFFFFFFFFFFFF = 0xFFFFFFFC7FF00000 ∧ scramble 0xFFFFFFFC7FF00000 = 0x3AA6BE86A4B00000) ∧
    (mix 0x8000000000000000 0 = 0x8000000200000000 ∧ scramble 0x8000000200000000 = 0x292FFB6A00000000) ∧
    (mix 0 0x8000000000000000 = 0x8010000000000000 ∧ scramble 0x8010000000000000 = 0x5B50000000000000) ∧
    (mix 0x0123456789ABCDEF 0xFEDCBA9876543210 = 0xC4CD5823897C20E7 ∧
      scramble 0xC4CD5823897C20E7 = 0x8FCE214F15888E53) ∧
    (mix 0x40000000 0x200000000 = 0x240400001 ∧ scramble 0x240400001 = 0x43D1AAAB01D7FDB5) := by decide

/-- V-N1 and V-N2: NEXT from seed A, and with the position wrapping from 15 to 0. -/
theorem test_next_wraps :
    after (exec .next seededA) (fun t => (t.rspDat, t.readS 1, t.readS 0, t.pos)) =
      some (0x106689D45497FDB5, 1, 1, 1) ∧
    after (exec .next { seededA with S := Vector.replicate 16 1, pos := 15 }) (fun t => (t.rspDat, t.readS 0, t.pos)) =
      some (0xC791485A5B500000, 0x80100000, 0) := by decide

/-- V-A1: NOP after reset answers OK with data 0. -/
theorem test_nop : after (exec .nop State.reset) State.heldResponse = some (some ⟨0b00, 0⟩) := by decide

/-- V-A3 and P1 #21: GETW is refused before a seed, and reads the raw word after. -/
theorem test_getw : after (exec (.getw 5) State.reset) State.heldResponse = some (some ⟨0b10, 0⟩) ∧
    after (exec (.getw 0) seededA) State.heldResponse = some (some ⟨0b00, 1⟩) := by decide

/-- V-A4: SEEDW 3, 5 after reset stages the word and sets bit 3 of the mask; STATUS then reads 0x80000. -/
theorem test_seedw : after (exec (.seedw 3 5) State.reset) (fun t => (t.readStage 3, t.mask, t.statusWord)) =
    some (5, 0x0008, 0x80000) := by decide

/-- V-A10: the last value staged wins. -/
theorem test_seedw_overwrites :
    after (exec (.seedw 7 0xBB) { State.reset with Stage := bankWrite State.reset.Stage 7 0xAA, mask := 0x0080 })
      (fun t => (t.readStage 7, t.mask)) = some (0xBB, 0x0080) := by decide

/-- V-A6: COMMIT loads the staged seed; STATUS then reads 0x10. -/
theorem test_commit : after (exec .commit { stagedA with pos := 9 }) (fun t => (t.S, t.pos, t.seeded, t.mask, t.statusWord)) =
    some (seedA, 0, true, 0, 0x10) := by decide

/-- V-A5: COMMIT with word 15 missing is refused and keeps the mask. -/
theorem test_commit_incomplete : after (exec .commit { stagedA with mask := 0x7FFF }) (fun t => (t.heldResponse, t.mask, t.seeded)) =
    some (some ⟨0b11, 0⟩, 0x7FFF, false) := by decide

/-- V-A9 and P3 #25: the status word. -/
theorem test_status : after (exec .status { seededA with pos := 2 }) State.heldResponse = some (some ⟨0b00, 0x12⟩) ∧
    after (exec .status { State.reset with mask := 0xFFFF }) State.heldResponse = some (some ⟨0b00, 0xFFFF0000⟩) := by decide

/-! ### Edges -/

/-- R180, R181: a reset edge with a command on the port clears position, flag and mask and keeps the words. -/
theorem test_reset_edge : after (clockEdge rstEdge { seededA with pos := 3, mask := 7, rspPending := true })
    (fun t => (t.pos, t.seeded, t.mask, t.rspPending, t.S)) = some (0, false, 0, false, seedA) := by decide

/-- R63: a command offered while a response is pending is not accepted. -/
theorem test_pending_blocks : accepts (offerEdge ⟨0x10, 0⟩) waiting = false ∧ accepts (offerEdge ⟨0x10, 0⟩) seededA = true := by
  decide

/-! ### Lines of the assembly language (R75, R76) -/

/-- Each check of WellFormed refuses an ill-formed line: an index of 16, a value of 65 bits, a code of 0x100, a seed of
15 words, a seed word of 65 bits. -/
theorem test_wellFormed_refuses :
    (AsmLine.getw 16).wellFormed = false ∧ (AsmLine.seedw 16 0).wellFormed = false ∧
    (AsmLine.seedw 0 0x10000000000000000).wellFormed = false ∧ (AsmLine.cmd 0x100 0).wellFormed = false ∧
    (AsmLine.cmd 0 0x10000000000000000).wellFormed = false ∧ (AsmLine.setseed (List.replicate 15 0)).wellFormed = false ∧
    (AsmLine.setseed (0x10000000000000000 :: List.replicate 15 0)).wellFormed = false ∧
    (AsmLine.restore 16 (List.replicate 16 0)).wellFormed = false ∧
    (AsmLine.restore 0 (List.replicate 17 0)).wellFormed = false := by decide

/-- And accepts the bounds: index 15, the largest word, code 0xFF, 16 words. -/
theorem test_wellFormed_accepts :
    (AsmLine.getw 15).wellFormed = true ∧ (AsmLine.seedw 15 0xFFFFFFFFFFFFFFFF).wellFormed = true ∧
    (AsmLine.cmd 0xFF 0).wellFormed = true ∧ (AsmLine.setseed (List.replicate 16 0)).wellFormed = true ∧
    (AsmLine.restore 15 (List.replicate 16 0)).wellFormed = true ∧ (AsmLine.draw 3).wellFormed = true := by decide

/-- P3 #4 as text, with a comment: `SEEDW 0, 0xFFFFFFFFFFFFFFFF ; c`. -/
theorem test_text_seedw :
    assembleText ['S', 'E', 'E', 'D', 'W', ' ', '0', ',', ' ', '0', 'x', 'F', 'F', ' ', ';', 'c'] =
      some [⟨0x30, 0xFF⟩] := by decide

/-- P3 #21 as text, `.cmd 0x11`; `GETW 16` is no line; a comment alone is no command. -/
theorem test_text_lines :
    assembleText ['.', 'c', 'm', 'd', ' ', '0', 'x', '1', '1'] = some [⟨0x11, 0⟩] ∧
    assembleText ['G', 'E', 'T', 'W', ' ', '1', '6'] = none ∧
    assembleText ['N', 'E', 'X', 'T', ' ', '1'] = none ∧
    assembleText [';', ' ', 'x'] = some [] ∧
    assembleText ['D', 'R', 'A', 'W', ' ', '2'] = some [⟨0x10, 0⟩, ⟨0x10, 0⟩] := by decide

/-- P2, block Y: `RESTORE 3` stages word `(i + 3) mod 16` at index i: index 0 takes word 3, index 13 takes word 0. -/
theorem test_restore_rotates :
    bankRead (rotate 3 (bankWrite State.reset.S 3 5)) 0 = 5 ∧ bankRead (rotate 3 seedA) 13 = 1 ∧
    bankRead (rotate 3 seedA) 0 = 0 := by decide

/-! ### Witnesses: states and operands that meet the hypotheses of the statements, clause by clause -/

theorem witness_StateWordsChangeOnlyByNextOrCommit :
    accepts (offerEdge ⟨0x10, 0⟩) seededA = true ∧ after (clockEdge (offerEdge ⟨0x10, 0⟩) seededA) State.S ≠ some seededA.S ∧
    after (clockEdge (offerEdge ⟨0x40, 0⟩) stagedA) State.S ≠ some stagedA.S := by decide

theorem witness_ZeroSeedIsAcceptedAndDrawsZero :
    ∃ s : State, s.mask = 0xFFFF#16 ∧ ∀ i : Index, s.readStage i = 0 :=
  ⟨{ State.reset with mask := 0xFFFF }, rfl, by decide⟩

theorem witness_PositionChangesOnlyByResetCommitNext :
    rstEdge.rst = true ∧ accepts (offerEdge ⟨0x40, 0⟩) stagedA = true ∧ accepts (offerEdge ⟨0x10, 0⟩) seededA = true ∧
    after (clockEdge (offerEdge ⟨0x10, 0⟩) { seededA with pos := 15 }) State.pos = some 0 := by decide

theorem witness_SeededIsSetOnlyByCommitAndClearedByReset :
    rstEdge.rst = true ∧ State.reset.seeded = false ∧
    (stagedA.seeded = false ∧ after (clockEdge (offerEdge ⟨0x40, 0⟩) stagedA) State.seeded = some true) ∧
    (seededA.seeded = true ∧ after (clockEdge rstEdge seededA) State.seeded = some false) := by decide

theorem witness_StagingIsWrittenBySeedwAndReadByCommit :
    accepts (offerEdge ⟨0x33, 5⟩) State.reset = true ∧ decode ⟨0x33, 5⟩ = .ok (.seedw 3 5) ∧
    after (clockEdge (offerEdge ⟨0x33, 5⟩) State.reset) (fun t => t.readStage 3) = some 5 := by decide

theorem witness_MaskBitsFollowSeedwCommitReset :
    stagedA.mask = 0xFFFF#16 ∧ State.reset.mask ≠ 0xFFFF#16 ∧ rstEdge.rst = true ∧
    after (clockEdge (offerEdge ⟨0x33, 5⟩) State.reset) State.mask = some 0x0008 := by decide

/-- The two states differ in a state word, which holds no value in either. -/
theorem witness_UnspecifiedContentsNeverReachThePort :
    ∃ s t : State, s.SameVisible t ∧ s.readS 4 ≠ t.readS 4 :=
  ⟨State.reset, { State.reset with S := Vector.replicate 16 1 },
    ⟨rfl, rfl, rfl, by decide, by decide, rfl, rfl, rfl⟩, by decide⟩

/-- With a NEXT, a refused COMMIT and a reserved code between the two COMMITs. -/
theorem witness_RepeatedCommandsBehaveAsStated :
    (∃ i : Instr, i = .status) ∧ (∃ i : Instr, ∃ k, i = .getw k) ∧
    ∃ (s t : State) (between : List Command), exec .commit s = .next t ∧ t.rspSt = 0b00 ∧ between.length = 3 ∧
      ∀ c ∈ between, ∀ k v, decode c ≠ .ok (.seedw k v) :=
  ⟨⟨_, rfl⟩, ⟨_, 3, rfl⟩, stagedA, _, [⟨0x10, 0⟩, ⟨0x40, 0⟩, ⟨0x60, 0⟩], execCommit_full (by decide), rfl, rfl,
    fun c hc k v => by
      simp only [List.mem_cons, List.not_mem_nil, or_false] at hc
      rcases hc with rfl | rfl | rfl <;> simp [decode, opField, idxField]⟩

/-- A GETW, a STATUS and a COMMIT that is refused, on a seeded state. -/
theorem witness_ReadsWithoutNextOrCommitAreOneSnapshot :
    ∃ t, runCommands [⟨0x20, 0⟩, ⟨0x40, 0⟩, ⟨0x50, 0⟩] seededA = .next (t, [⟨0b00, 1⟩, ⟨0b11, 0⟩, ⟨0b00, 0x10⟩]) ∧
      seededA.seeded = true ∧ (∀ c ∈ [0x20, 0x40, 0x50], decode ⟨c, 0⟩ ≠ .ok .next) ∧
      decode ⟨0x20, 0⟩ = .ok (.getw 0) ∧ decode ⟨0x40, 0⟩ = .ok .commit ∧ decode ⟨0x50, 0⟩ = .ok .status :=
  ⟨_, rfl, by decide⟩

theorem witness_StepRunsTheDecodedCommand :
    ∃ (s : State) (e e' : Edge), s.edges = [e] ∧ e.rst = false ∧ e.cmdValid = true ∧ cmdReady e s = true ∧
      decode ⟨e.cmdCode, e.cmdData⟩ = .ok .next ∧ e'.rst = false ∧ e'.cmdValid = true ∧ cmdReady e' s = true ∧
      decode ⟨e'.cmdCode, e'.cmdData⟩ = .error (.reservedCode 0x60) :=
  ⟨seededA.setEdges [offerEdge ⟨0x10, 0⟩], offerEdge ⟨0x10, 0⟩, offerEdge ⟨0x60, 0⟩, by decide⟩

theorem witness_StepUsesUpOneEdge :
    (seededA.setEdges [rstEdge, idleEdge]).edges = rstEdge :: [idleEdge] ∧ waiting.edges = [] := by decide

theorem witness_NoCommandIsAcceptedWhileAResponseIsPending :
    rstEdge.rst = true ∧ waiting.rspPending = true ∧ idleEdge.rst = false ∧ takes idleEdge waiting = false ∧
    State.reset.rspPending = false :=
  ⟨rfl, rfl, rfl, by simp [takes, idleEdge], rfl⟩

/-- An accepted command, no edge or one edge after it, and a response driven but not taken. -/
theorem witness_ResponseIsOfferedExactlyFromTheLatencyOn :
    accepts (offerEdge ⟨0x10, 0⟩) seededA = true ∧
    ((∀ x ∈ ([] : List Edge), x.rst = false) ∧ ([] : List Edge).length < Config.rspLatency) ∧
    (rspValid idleEdge offered = true ∧ idleEdge.rspReady = false ∧ idleEdge.rst = false) :=
  ⟨by decide, ⟨by simp, by simp [Config.rspLatency]⟩, (rspValid_iff _ _).2 ⟨rfl, rfl, Nat.le_refl _⟩, rfl, rfl⟩

theorem witness_HandshakeTakesTheResponse :
    (takeEdge.rst = false ∧ rspValid takeEdge offered = true ∧ takeEdge.rspReady = true) ∧
    (idleEdge.rst = false ∧ offered.rspPending = true ∧ idleEdge.rspReady = false) :=
  ⟨⟨rfl, (rspValid_iff _ _).2 ⟨rfl, rfl, Nat.le_refl _⟩, rfl⟩, rfl, rfl, rfl⟩

/-- One cycle with `cmd_ready` low, the offer of NEXT, and `RSP_LATENCY` edges with `rsp_ready` high. -/
theorem witness_OfferedCommandFinishes :
    seededA.rspPending = false ∧ (∀ x ∈ [stallEdge], x.rst = false ∧ cmdReady x seededA = false) ∧
    (offerEdge ⟨0x10, 0⟩).rst = false ∧ (offerEdge ⟨0x10, 0⟩).cmdValid = true ∧
    cmdReady (offerEdge ⟨0x10, 0⟩) seededA = true ∧
    (List.replicate Config.rspLatency takeEdge).length = Config.rspLatency ∧
    (∀ x ∈ List.replicate Config.rspLatency takeEdge, x.rst = false ∧ x.rspReady = true) ∧
    ∃ t, perform ⟨0x10, 0⟩ seededA = .next t :=
  ⟨rfl, by decide, rfl, rfl, by decide, by simp, fun x hx => by rw [List.eq_of_mem_replicate hx]; decide,
    (perform_next ⟨0x10, 0⟩ seededA).imp fun _ h => h.1⟩

/-- A run with a reset and a run without one. -/
theorem witness_ClockedRunRefinesTheTransactionView :
    seededA.rspPending = false ∧ (∀ e ∈ [offerEdge ⟨0x10, 0⟩, takeEdge], e.rst = false) ∧ rstEdge.rst = true := by decide

theorem witness_OperandsComeFromTheirFields :
    decode ⟨0x2F, 0⟩ = .ok (.getw 15) ∧ decode ⟨0x30, 8⟩ = .ok (.seedw 0 8) ∧ (0x2F : BitVec 8).toNat / 16 ≠ 3 ∧
    (0x40 : BitVec 8).toNat / 16 ≠ 3 := by decide

/-- Both ends of each range of reserved codes, none of which a command shares. -/
theorem witness_ReservedCodesRaiseErrIllegal :
    (∀ c ∈ [0x01, 0x0F], 0x01 ≤ c ∧ c ≤ 0x0F) ∧ (∀ c ∈ [0x11, 0x1F], 0x11 ≤ c ∧ c ≤ 0x1F) ∧
    (∀ c ∈ [0x41, 0x4F], 0x41 ≤ c ∧ c ≤ 0x4F) ∧ (∀ c ∈ [0x51, 0x5F], 0x51 ≤ c ∧ c ≤ 0x5F) ∧
    (∀ c ∈ [0x60, 0xFF], 0x60 ≤ c) ∧
    (∀ c ∈ [0x00#8, 0x10, 0x20, 0x2F, 0x30, 0x3F, 0x40, 0x50], (decode ⟨c, 0⟩).isOk = true) := by decide

theorem witness_ResponseDataOfEveryCommand :
    after (exec .next State.reset) State.rspSt = some 0b10 ∧ after (exec .next seededA) State.rspSt = some 0b00 := by decide

theorem witness_DecodeAndEncodeAgree : decode ⟨0x35, 6⟩ = .ok (.seedw 5 6) ∧ decode ⟨0x25, 6⟩ = .ok (.getw 5) := by decide

theorem witness_WellFormedLinesAssembleToTheirCommand :
    (AsmLine.getw 15).wellFormed = true ∧ (AsmLine.seedw 0 5).wellFormed = true ∧ (AsmLine.cmd 0x60 0).wellFormed = true := by
  decide

/-- Shared by the statements about a seeded and an unseeded NEXT or GETW. -/
theorem witness_NextDrawsAndAdvances : seededA.seeded = true ∧ State.reset.seeded = false := by decide

theorem witness_MixInNaturalNumberArithmetic :
    (∃ s1 : Word, ∃ t : Nat, t = s1.toNat ^^^ (s1.toNat * 0x80000000 % 0x10000000000000000)) ∧ seededA.seeded = true :=
  ⟨⟨3, _, rfl⟩, rfl⟩

theorem witness_OutputIsTheScrambledStoredWord : seededA.seeded = true := by decide

/-- A seeded state whose NEXT changes word 1 and keeps word 0. -/
theorem witness_NextWritesOneWordAndKeepsItsSource :
    seededA.seeded = true ∧ after (exec .next seededA) (fun t => (t.readS 1 ≠ seededA.readS 1 : Bool)) = some true := by decide

theorem witness_PositionWrapsAndDrawsWriteInTurn :
    ({ seededA with pos := 15 } : State).seeded = true ∧ ({ seededA with pos := 15 } : State).pos = 15 ∧
    stagedA.mask = 0xFFFF#16 := by decide

/-- Two seeded states with equal words and position that differ everywhere else, and commands with no COMMIT among
them; and two with the same seed staged. -/
theorem witness_DrawsDependOnWordsAndPositionAlone :
    (∃ s t : State, s.seeded = true ∧ t.seeded = true ∧ s.S = t.S ∧ s.pos = t.pos ∧ s.mask ≠ t.mask ∧
      ∀ c ∈ [(⟨0x10, 0⟩ : Command), ⟨0x31, 4⟩], decode c ≠ .ok .commit) ∧
    ∃ s t : State, s.seeded = true ∧ t.seeded = true ∧ s.S = t.S ∧ s.pos = t.pos ∧ s.Stage = t.Stage ∧ s.mask = t.mask ∧
      s.rspDat ≠ t.rspDat :=
  ⟨⟨seededA, { seededA with mask := 5, Stage := seedA, rspDat := 3 }, by decide⟩, seededA, { seededA with rspDat := 3 },
    by decide⟩

theorem witness_NextIsInvertibleAndKeepsNonzero :
    (∃ s : State, s.seeded = true ∧ s.AllZero) ∧ (∃ s : State, s.seeded = true ∧ ¬ s.AllZero) ∧
    ∃ s t s' t' : State, s.seeded = true ∧ t.seeded = true ∧ exec .next s = .next s' ∧ exec .next t = .next t' ∧
      s'.S = t'.S ∧ s'.pos = t'.pos ∧ s.mask ≠ t.mask :=
  ⟨⟨{ State.reset with seeded := true }, rfl, by unfold State.AllZero; decide⟩,
    ⟨seededA, rfl, fun h => absurd (h 0) (by decide)⟩,
    seededA, { seededA with mask := 5 }, _, _, rfl, rfl, execNext_seeded rfl, execNext_seeded rfl, rfl, rfl, by decide⟩

theorem witness_OutputDeterminesTheStoredWord : seededA.seeded = true := by decide

/-- Seed A at position 3, and the same words rotated by 3 at position 0. -/
theorem witness_RotatedStatesDrawTheSameStream :
    ∃ (p : Index) (s t : State), p ≠ 0 ∧ State.Rotated p s t :=
  ⟨3, { seededA with pos := 3 }, { seededA with S := rotate 3 seedA }, by decide, by decide, rfl, rfl, rfl⟩

theorem witness_GetwReadsTheRawWord : seededA.seeded = true ∧ State.reset.seeded = false := by decide

theorem witness_CommitLoadsTheStagedSeed :
    stagedA.mask = 0xFFFF#16 ∧ ∃ i : Index, ({ stagedA with mask := 0x7FFF } : State).maskBit i = false :=
  ⟨rfl, 15, by decide⟩

theorem witness_StagingOrderDoesNotMatter : ∀ i : Index, i ∈ allIndices.reverse ++ [3] := by decide

theorem witness_GetStateReturnsWordsAndPosition : seededA.seeded = true := by decide

theorem witness_RestoreResumesTheStream :
    ({ seededA with pos := 3 } : State).seeded = true ∧ seededA.seeded = true ∧ seededA.pos = 0 := by decide

/-- Two states that differ in an earlier response alone. -/
theorem witness_ErrorsAreNotSticky :
    ∃ s u : State, s.SameButResponse u ∧ s.rspSt ≠ u.rspSt :=
  ⟨seededA, { seededA with rspSt := 0b10 }, ⟨rfl, rfl, rfl, rfl, rfl, rfl, rfl⟩, by decide⟩

theorem witness_StatusOfEveryCommand :
    (decode ⟨0x60, 0⟩).isOk = false ∧ (decode ⟨0x20, 0⟩).isOk = true ∧ rstEdge.rst = true := by decide

theorem witness_ErrorsChangeOnlyTheResponse :
    after (perform ⟨0x10, 0⟩ State.reset) State.rspSt = some 0b10 ∧ after (perform ⟨0x40, 0⟩ State.reset) State.rspSt = some 0b11 ∧
    after (perform ⟨0x60, 0⟩ seededA) State.rspSt = some 0b01 ∧
    ((offerEdge ⟨0x50, 0⟩).rst = false ∧ (offerEdge ⟨0x50, 0⟩).cmdValid = true ∧ (offerEdge ⟨0x50, 0⟩).readyChoice = true) := by
  decide

theorem witness_ResetEdgesGiveTheResetValues : rstEdge.rst = true ∧ ∀ x ∈ [rstEdge], x.rst = true := by decide

theorem witness_ResetDropsTheResponseAndKeepsTheBanks : rstEdge.rst = true ∧ offered.rspPending = true := by decide

/-- After reset: NOP, NEXT, a COMMIT that is refused, one SEEDW, a reserved code and STATUS, with word 4 not staged; and
16 words staged. -/
theorem witness_BeforeASeedOnlyTheseCommandsSucceed :
    rstEdge.rst = true ∧
    (∃ t, runCommands [⟨0x00, 0⟩, ⟨0x10, 0⟩, ⟨0x40, 0⟩, ⟨0x33, 5⟩, ⟨0x60, 0⟩, ⟨0x50, 0⟩] State.reset.resetEdge =
      .next (t, [⟨0b00, 0⟩, ⟨0b10, 0⟩, ⟨0b11, 0⟩, ⟨0b00, 0⟩, ⟨0b01, 0⟩, ⟨0b00, 0x80000⟩])) ∧
    (∀ c ∈ [0x00#8, 0x10, 0x40, 0x33, 0x60, 0x50], idxField c ≠ 4) ∧
    (∃ t, runCommands (allIndices.map fun i => ⟨mkCode 0x3 i, 0⟩) State.reset.resetEdge =
      .next (t, List.replicate 16 ⟨0b00, 0⟩)) ∧
    ∀ k : Index, ⟨mkCode 0x3 k, 0⟩ ∈ allIndices.map (fun i => (⟨mkCode 0x3 i, 0⟩ : Command)) ∧
      decode ⟨mkCode 0x3 k, 0⟩ = .ok (.seedw k 0) :=
  ⟨rfl, ⟨_, rfl⟩, by decide, ⟨_, rfl⟩, by decide⟩

/-- A pending response on the clocked side alone; an edge without reset and one with it. -/
theorem witness_EveryEdgeKeepsTheTransactionSimulation :
    ∃ s v : State, v.SameButResponse s ∧ s.rspPending = true ∧ v.rspPending = false ∧ takeEdge.rst = false ∧
      rstEdge.rst = true :=
  ⟨waiting, State.reset, ⟨rfl, rfl, rfl, rfl, rfl, rfl, rfl⟩, rfl, rfl, rfl, rfl⟩

theorem witness_PseudoCommandsExpandAsListed :
    (AsmLine.setseed (List.replicate 15 0 ++ [0xFFFFFFFFFFFFFFFF])).wellFormed = true ∧
    (AsmLine.restore 15 (0xFFFFFFFFFFFFFFFF :: List.replicate 15 0)).wellFormed = true ∧
    (AsmLine.restore 0 (List.replicate 16 1)).wellFormed = true := by decide

theorem witness_EveryStepKeepsTheInvariant :
    ∃ s t : State, s.Inv ∧ step s = .next t :=
  have ⟨t, h, _⟩ := clockEdge_next (offerEdge ⟨0x10, 0⟩) (seededA.setEdges [])
  ⟨seededA.setEdges [offerEdge ⟨0x10, 0⟩], t, ⟨by decide, by decide, by decide⟩, (step_cons rfl).trans h⟩

end Sys2Proof.Tests
end

section
/-! PROOFS. The rules of the state (10_state.md): what one edge and one accepted command leave of `seeded`, `Stage` and
`mask`, the status word bit by bit, draws from the all-zero state; then the obligations of that family. -/

namespace Sys2Proof.Machine

/-! ### What an edge does, read from the state it leaves -/

/-- The inversion of an edge: reset, the answer of the accepted command, or only the response register moves. -/
theorem clockEdge_inv {e : Edge} {s t : State} (h : clockEdge e s = .next t) :
    (e.rst = true ∧ t = s.resetEdge) ∨
    (accepts e s = true ∧ PerformCase ⟨e.cmdCode, e.cmdData⟩ s t) ∨
    s.SameButResponse t := by
  obtain ⟨t', ht', hcases⟩ := edge_cases e s
  obtain rfl : t' = t := by simpa [ht'] using h
  rcases hcases with ⟨hr, rfl⟩ | ⟨ha, hp⟩ | ⟨_, _, rfl⟩ | ⟨_, _, _, rfl⟩
  · exact .inl ⟨hr, rfl⟩
  · exact .inr (.inl ⟨ha, performCase hp⟩)
  · exact .inr (.inr s.takeResponse_sameButResponse)
  · exact .inr (.inr s.passCycle_sameButResponse)

theorem clockEdge_of_rst {e : Edge} (h : e.rst = true) (s : State) : clockEdge e s = .next s.resetEdge := by
  simp [clockEdge, h]

theorem perform_of_decode_ok {c : Command} {i : Instr} (h : decode c = .ok i) (s : State) :
    perform c s = exec i s := by
  simp [perform, h]

theorem perform_of_decode_error {c : Command} {r : Reject} (h : decode c = .error r) (s : State) :
    perform c s = .next (s.raise .errIllegal) := by
  simp [perform, h]

/-! ### What an accepted command does to one element -/

theorem PerformCase.seeded_cases {c : Command} {s t : State} (h : PerformCase c s t) :
    t.seeded = s.seeded ∨ (decode c = .ok .commit ∧ t.seeded = true ∧ t.rspSt = 0b00) := by
  cases h with
  | commit hd _ ht => subst ht; exact .inr ⟨hd, rfl, rfl⟩
  | _ => subst t; exact .inl rfl

theorem PerformCase.stage_cases {c : Command} {s t : State} (h : PerformCase c s t) :
    t.Stage = s.Stage ∨ ∃ k v, decode c = .ok (.seedw k v) ∧ t.Stage = bankWrite s.Stage k v := by
  cases h with
  | seedw k v hd ht => subst ht; exact .inr ⟨k, v, hd, rfl⟩
  | _ => subst t; exact .inl rfl

theorem PerformCase.mask_cases {c : Command} {s t : State} (h : PerformCase c s t) :
    t.mask = s.mask ∨ (decode c = .ok .commit ∧ t.mask = 0) ∨
      ∃ k v, decode c = .ok (.seedw k v) ∧ t.mask = maskWith s.mask k := by
  cases h with
  | seedw k v hd ht => subst ht; exact .inr (.inr ⟨k, v, hd, rfl⟩)
  | commit hd _ ht => subst ht; exact .inr (.inl ⟨hd, rfl⟩)
  | _ => subst t; exact .inl rfl

/-- NEXT and GETW need a seed: without one each raises ERR_UNSEEDED (R100, R121). -/
theorem exec_unseeded {s : State} (hs : s.seeded = false) {i : Instr} (hi : i = .next ∨ ∃ k, i = .getw k) :
    exec i s = .next (s.raise .errUnseeded) := by
  rcases hi with rfl | ⟨k, rfl⟩
  · exact execNext_unseeded hs
  · exact execGetw_unseeded hs k

/-! ### The staged mask -/

theorem State.maskFull_iff_mask_eq (s : State) : s.maskFull = true ↔ s.mask = 0xFFFF#16 := by
  simp [State.maskFull]

theorem State.maskFull_eq_false_iff_mask_ne (s : State) : s.maskFull = false ↔ s.mask ≠ 0xFFFF#16 := by
  simp [State.maskFull]

theorem State.maskBit_of_mask_eq_zero {s : State} (h : s.mask = 0) (i : Index) : s.maskBit i = false := by
  simp [State.maskBit, h]

/-! ### The status word -/

/-- The status word bit by bit (R27). -/
theorem State.getLsbD_statusWord (s : State) (k : Nat) :
    s.statusWord.getLsbD k =
      if k < 4 then s.pos.getLsbD k else if k = 4 then s.seeded else if k < 16 then false
      else s.mask.getLsbD (k - 16) := by
  simp only [State.statusWord, BitVec.getLsbD_setWidth, BitVec.getLsbD_append, BitVec.getLsbD_ofBool,
    BitVec.getLsbD_zero]
  by_cases hpos : k < 4
  · simp [hpos, show k < 64 by omega]
  by_cases hseeded : k = 4
  · simp [hseeded]
  by_cases hgap : k < 16
  · simp [hpos, hseeded, hgap, show ¬ k - 4 < 1 by omega, show k - 4 - 1 < 11 by omega]
  · rw [if_neg hpos, if_neg (by omega), if_neg (by omega), if_neg hpos, if_neg hseeded, if_neg hgap,
      show k - 4 - 1 - 11 = k - 16 by omega]
    by_cases hk : k < 64
    · simp [hk]
    · simp [hk, BitVec.getLsbD_of_ge s.mask (k - 16) (by omega)]

theorem State.getLsbD_statusWord_staged (s : State) (i : Index) :
    s.statusWord.getLsbD (16 + i.toNat) = s.maskBit i := by
  rw [s.getLsbD_statusWord, if_neg (by omega), if_neg (by omega), if_neg (by omega), Nat.add_sub_cancel_left,
    State.maskBit]

/-! ### No response depends on the staging words -/

/-- Two states agree on the response and on every element a response can show but the two banks (R24: COMMIT copies the
staging words into `S`, so the banks are where different staging words may show). -/
structure State.SameOutsideBanks (t u : State) : Prop where
  rspSt : u.rspSt = t.rspSt
  rspDat : u.rspDat = t.rspDat
  pos : u.pos = t.pos
  seeded : u.seeded = t.seeded
  mask : u.mask = t.mask

theorem exec_with_other_stage (i : Instr) (s : State) (b : Bank) :
    ∃ t u, exec i s = .next t ∧ exec i { s with Stage := b } = .next u ∧ t.SameOutsideBanks u ∧
      (i ≠ .commit → u.S = t.S) := by
  cases i with
  | nop => exact ⟨_, _, rfl, rfl, ⟨rfl, rfl, rfl, rfl, rfl⟩, fun _ => rfl⟩
  | next =>
    rcases Bool.eq_false_or_eq_true s.seeded with hs | hs
    · exact ⟨_, _, execNext_seeded hs, execNext_seeded hs, ⟨rfl, rfl, rfl, rfl, rfl⟩, fun _ => rfl⟩
    · exact ⟨_, _, execNext_unseeded hs, execNext_unseeded hs, ⟨rfl, rfl, rfl, rfl, rfl⟩, fun _ => rfl⟩
  | getw k =>
    rcases Bool.eq_false_or_eq_true s.seeded with hs | hs
    · exact ⟨_, _, execGetw_seeded hs k, execGetw_seeded (s := { s with Stage := b }) hs k,
        ⟨rfl, rfl, rfl, rfl, rfl⟩, fun _ => rfl⟩
    · exact ⟨_, _, execGetw_unseeded hs k, execGetw_unseeded (s := { s with Stage := b }) hs k,
        ⟨rfl, rfl, rfl, rfl, rfl⟩, fun _ => rfl⟩
  | seedw k v => exact ⟨_, _, rfl, rfl, ⟨rfl, rfl, rfl, rfl, rfl⟩, fun _ => rfl⟩
  | commit =>
    cases hm : s.maskFull
    · exact ⟨_, _, execCommit_incomplete hm, execCommit_incomplete hm, ⟨rfl, rfl, rfl, rfl, rfl⟩, fun _ => rfl⟩
    · exact ⟨_, _, execCommit_full hm, execCommit_full hm, ⟨rfl, rfl, rfl, rfl, rfl⟩, fun h => absurd rfl h⟩
  | status => exact ⟨_, _, rfl, rfl, ⟨rfl, rfl, rfl, rfl, rfl⟩, fun _ => rfl⟩

theorem perform_with_other_stage (c : Command) (s : State) (b : Bank) :
    ∃ t u, perform c s = .next t ∧ perform c { s with Stage := b } = .next u ∧ t.SameOutsideBanks u ∧
      (decode c ≠ .ok .commit → u.S = t.S) := by
  cases hd : decode c with
  | ok i =>
    obtain ⟨t, u, ht, hu, hsame, hS⟩ := exec_with_other_stage i s b
    exact ⟨t, u, (perform_of_decode_ok hd s).trans ht, (perform_of_decode_ok hd _).trans hu, hsame,
      fun h => hS fun hi => h (congrArg _ hi)⟩
  | error r =>
    exact ⟨_, _, perform_of_decode_error hd s, perform_of_decode_error hd _, ⟨rfl, rfl, rfl, rfl, rfl⟩, fun _ => rfl⟩

/-! ### Draws from the all-zero state -/

theorem mix_zero : mix 0 0 = 0 := by decide

theorem scramble_zero : scramble 0 = 0 := by decide

/-- NEXT at the degenerate fixed point (R21): it draws 0 and stays there. -/
theorem exec_next_of_allZero {s : State} (hs : s.seeded = true) (hz : s.AllZero) :
    ∃ t, exec .next s = .next t ∧ t.Responded 0b00 0 ∧ t.AllZero ∧ t.seeded = true := by
  have hmix : mix (s.readS s.pos) (s.readS (nextPos s.pos)) = 0 := by rw [hz, hz, mix_zero]
  refine ⟨_, execNext_seeded hs, ⟨rfl, rfl, ?_⟩, fun i => ?_, hs⟩
  · rw [State.respond_rspDat, hmix, scramble_zero]
  · rw [State.readS_respond, State.readS_writeS, hmix, State.readS_setPos, hz, ite_self]

theorem runCommands_replicate_next_of_allZero {c : Command} (hc : decode c = .ok .next) (n : Nat) :
    ∀ s : State, s.seeded = true → s.AllZero →
      ∃ t, runCommands (List.replicate n c) s = .next (t, List.replicate n ⟨0b00, 0⟩) ∧
        t.AllZero ∧ t.seeded = true := by
  induction n with
  | zero => exact fun s hs hz => ⟨s, runCommands_nil s, hz, hs⟩
  | succ n ih =>
    intro s hs hz
    obtain ⟨t, ht, hresp, htz, hts⟩ := exec_next_of_allZero hs hz
    obtain ⟨u, hu, huz, hus⟩ := ih t.takeResponse hts htz
    have hrun := runCommands_cons ((perform_of_decode_ok hc s).trans ht) hu
    rw [hresp.st, hresp.dat] at hrun
    exact ⟨u, hrun, huz, hus⟩

end Sys2Proof.Machine

namespace Sys2Proof.Proofs

open Sys2Proof.Machine

/-- Settles O2: COMMIT loads the zero words, and every draw after it finds and leaves the all-zero state. -/
theorem zeroSeedIsAcceptedAndDrawsZero : Obligations.ZeroSeedIsAcceptedAndDrawsZero := by
  intro s n hmask hzero
  have hcommit := (perform_of_decode_ok (decode_commitCode 0) s).trans
    (execCommit_full (s.maskFull_iff_mask_eq.2 hmask))
  obtain ⟨t, ht, htz, hts⟩ := runCommands_replicate_next_of_allZero (decode_nextCode 0) n
    (((((s.loadS s.Stage).setPos 0).setSeeded true).setMask 0).respond .ok 0).takeResponse rfl hzero
  exact ⟨t, runCommands_cons hcommit ht, htz, hts⟩

/-- Settles O4, by the cases of an edge: only a reset and a successful COMMIT move `seeded`. -/
theorem seededIsSetOnlyByCommitAndClearedByReset : Obligations.SeededIsSetOnlyByCommitAndClearedByReset := by
  refine ⟨fun e s hr => ⟨_, clockEdge_of_rst hr s, rfl⟩, fun e s t h hs ht => ?_, fun e s t h hs ht => ?_,
    fun s hs i hi => ⟨_, exec_unseeded hs hi, rfl, rfl, rfl⟩⟩
  · rcases clockEdge_inv h with ⟨_, rfl⟩ | ⟨ha, hp⟩ | hsame
    · simp at ht
    · rcases hp.seeded_cases with hkeep | ⟨hd, _, hst⟩
      · simp [hkeep, hs] at ht
      · exact ⟨ha, hd, hst⟩
    · simp [hsame.seeded, hs] at ht
  · rcases clockEdge_inv h with ⟨hr, _⟩ | ⟨_, hp⟩ | hsame
    · exact hr
    · rcases hp.seeded_cases with hkeep | ⟨_, hset, _⟩
      · simp [hkeep, hs] at ht
      · simp [hset] at ht
    · simp [hsame.seeded, hs] at ht

/-- Settles O5: the frame of `Stage` over an edge, and the two runs of a command that differ in `Stage` alone. -/
theorem stagingIsWrittenBySeedwAndReadByCommit : Obligations.StagingIsWrittenBySeedwAndReadByCommit := by
  refine ⟨fun e s => ?_, fun c s b => ?_⟩
  · obtain ⟨t, ht, _⟩ := clockEdge_next e s
    refine ⟨t, ht, ?_⟩
    rcases clockEdge_inv ht with ⟨_, rfl⟩ | ⟨ha, hp⟩ | hsame
    · exact .inl rfl
    · rcases hp.stage_cases with hkeep | ⟨k, v, hd, hstage⟩
      · exact .inl hkeep
      · refine .inr ⟨k, v, ha, hd, ?_, fun j hj => ?_⟩
        · rw [State.readStage, hstage, bankRead_bankWrite_same]
        · rw [State.readStage, hstage, bankRead_bankWrite_other _ _ hj, State.readStage]
    · exact .inl hsame.Stage
  · obtain ⟨t, u, ht, hu, hsame, hS⟩ := perform_with_other_stage c s b
    exact ⟨t, u, ht, hu, hsame.rspSt, hsame.rspDat, hsame.pos, hsame.seeded, hsame.mask, hS⟩

/-- Settles O6, clause by clause: SEEDW, the two outcomes of COMMIT, reset, every other edge, STATUS. -/
theorem maskBitsFollowSeedwCommitReset : Obligations.MaskBitsFollowSeedwCommitReset := by
  refine ⟨fun i v s => ⟨_, rfl, getLsbD_maskWith s.mask i⟩,
    fun s hm => ⟨_, execCommit_full (s.maskFull_iff_mask_eq.2 hm), State.maskBit_of_mask_eq_zero rfl⟩,
    fun s hm => ⟨_, execCommit_incomplete (s.maskFull_eq_false_iff_mask_ne.2 hm), rfl⟩,
    fun e s hr => ⟨_, clockEdge_of_rst hr s, State.maskBit_of_mask_eq_zero rfl⟩,
    fun e s t h hne => ?_, fun s => ⟨_, rfl, s.getLsbD_statusWord_staged⟩⟩
  rcases clockEdge_inv h with ⟨hr, _⟩ | ⟨ha, hp⟩ | hsame
  · exact .inl hr
  · rcases hp.mask_cases with hkeep | ⟨hd, _⟩ | ⟨k, v, hd, _⟩
    · exact absurd hkeep hne
    · exact .inr ⟨ha, .inl hd⟩
    · exact .inr ⟨ha, .inr ⟨k, v, hd⟩⟩
  · exact absurd hsame.mask hne

/-- Settles O7: STATUS answers the status word and changes nothing else; its bits are `State.getLsbD_statusWord`. -/
theorem statusWordShowsPosSeededStaged : Obligations.StatusWordShowsPosSeededStaged := by
  refine ⟨decode_statusCode, fun s => ⟨_, rfl, ⟨rfl, rfl, rfl⟩, s.respond_sameButResponse .ok s.statusWord,
    fun k hk => ?_, ?_, fun k hlo hhi => ?_, s.getLsbD_statusWord_staged, fun k hk => ?_⟩, _, rfl, by decide⟩
  · rw [State.respond_rspDat, s.getLsbD_statusWord, if_pos hk]
  · rw [State.respond_rspDat, s.getLsbD_statusWord, if_neg (by omega), if_pos rfl]
  · rw [State.respond_rspDat, s.getLsbD_statusWord, if_neg (by omega), if_neg (by omega), if_pos hhi]
  · rw [State.respond_rspDat, s.getLsbD_statusWord, if_neg (by omega), if_neg (by omega), if_neg (by omega),
      BitVec.getLsbD_of_ge _ _ (by omega)]

end Sys2Proof.Proofs
end

section
/-! PROOFS. Reads over a run of commands (20_memory.md): the induction over a run, what a command leaves of the elements
GETW and the POS field of STATUS show, the answers of GETW and STATUS; then the obligation of that family. -/

namespace Sys2Proof.Machine

/-! ### Runs of commands -/

/-- The inversion of a run that starts with a command. -/
theorem runCommands_cons_inv {c : Command} {cs : List Command} {s u : State} {rs : List Response}
    (h : runCommands (c :: cs) s = .next (u, rs)) :
    ∃ t rs', perform c s = .next t ∧ runCommands cs t.takeResponse = .next (u, rs') ∧
      rs = ⟨t.rspSt, t.rspDat⟩ :: rs' := by
  obtain ⟨t, ht, _⟩ := perform_next c s
  simp only [runCommands, List.map_cons, runTransactions, ht] at h
  split at h
  · cases h
  · cases h
  · next rs' hrest =>
    cases h
    exact ⟨t, rs', ht, hrest, rfl⟩

/-- A response for each command, in the commands' order, each related to its command by `Q`. -/
structure Answered (Q : Command → Response → Prop) (cs : List Command) (rs : List Response) : Prop where
  length_eq : rs.length = cs.length
  response : ∀ (k : Nat) (c : Command), cs[k]? = some c → ∃ r, rs[k]? = some r ∧ Q c r

theorem Answered.cons {Q : Command → Response → Prop} {c : Command} {r : Response} {cs : List Command}
    {rs : List Response} (h : Q c r) (hrest : Answered Q cs rs) : Answered Q (c :: cs) (r :: rs) where
  length_eq := congrArg (· + 1) hrest.length_eq
  response
    | 0, _, hc => ⟨r, rfl, Option.some.inj hc ▸ h⟩
    | k + 1, d, hd => hrest.response k d hd

/-- Induction over a run. If every command whose response is as assumed (`A`) keeps `P` and answers as `Q` says, then a
run whose responses are all as assumed keeps `P`, and all its responses are as `Q` says. -/
theorem runCommands_keeps {P : State → Prop} {A Q : Command → Response → Prop}
    (hstep : ∀ {c : Command} {s t : State}, P s → perform c s = .next t → A c ⟨t.rspSt, t.rspDat⟩ →
      P t.takeResponse ∧ Q c ⟨t.rspSt, t.rspDat⟩) {cs : List Command} {s t : State} {rs : List Response}
    (hs : P s) (hrun : runCommands cs s = .next (t, rs))
    (hA : ∀ (k : Nat) (c : Command) (r : Response), cs[k]? = some c → rs[k]? = some r → A c r) :
    P t ∧ Answered Q cs rs := by
  induction cs generalizing s rs with
  | nil =>
    cases hrun
    exact ⟨hs, rfl, fun _ _ hc => nomatch hc⟩
  | cons c cs ih =>
    obtain ⟨u, rs', hu, hrest, rfl⟩ := runCommands_cons_inv hrun
    obtain ⟨hPu, hQ⟩ := hstep hs hu (hA 0 c _ rfl rfl)
    obtain ⟨hPt, hall⟩ := ih hPu hrest fun k d r hd hr => hA (k + 1) d r hd hr
    exact ⟨hPt, hall.cons hQ⟩

/-! ### The elements a read shows -/

/-- The two states agree on the state words, the position and `seeded`: what GETW and the POS and SEEDED fields of
STATUS show. -/
structure State.SameReads (s t : State) : Prop where
  S : t.S = s.S
  pos : t.pos = s.pos
  seeded : t.seeded = s.seeded

/-- Only NEXT and a successful COMMIT touch what a read shows. -/
theorem PerformCase.reads_cases {c : Command} {s t : State} (h : PerformCase c s t) :
    s.SameReads t ∨ decode c = .ok .next ∨ (decode c = .ok .commit ∧ t.rspSt = 0b00) := by
  cases h with
  | next hd _ _ => exact .inr (.inl hd)
  | commit hd _ ht => subst ht; exact .inr (.inr ⟨hd, rfl⟩)
  | _ => subst t; exact .inl ⟨rfl, rfl, rfl⟩

theorem State.setWidth_statusWord (s : State) : s.statusWord.setWidth 4 = s.pos := by
  ext k hk
  rw [BitVec.getElem_setWidth, s.getLsbD_statusWord, if_pos hk, BitVec.getLsbD_eq_getElem hk]

/-- The response is what the snapshot `s` answers to the command, if that is a GETW or a STATUS. -/
structure State.Shows (s : State) (c : Command) (r : Response) : Prop where
  getw : ∀ i : Index, decode c = .ok (.getw i) → r = ⟨0b00, s.readS i⟩
  status : decode c = .ok .status → r.st = 0b00 ∧ r.dat.setWidth 4 = s.pos

/-- GETW (R121) and STATUS (R124) answer from the state they find. -/
theorem perform_shows {c : Command} {s t : State} (hs : s.seeded = true) (h : perform c s = .next t) :
    s.Shows c ⟨t.rspSt, t.rspDat⟩ where
  getw i hd := by
    rw [(perform_of_decode_ok hd s).trans (execGetw_seeded hs i)] at h
    cases h
    rfl
  status hd := by
    rw [perform_of_decode_ok hd s] at h
    cases h
    exact ⟨rfl, s.setWidth_statusWord⟩

theorem State.SameReads.shows {s t : State} (h : s.SameReads t) {c : Command} {r : Response} (hr : t.Shows c r) :
    s.Shows c r where
  getw i hd := by rw [hr.getw i hd, State.readS, h.S, State.readS]
  status hd := h.pos ▸ hr.status hd

/-- Anything but NEXT and a successful COMMIT keeps a seeded snapshot and is answered from it. -/
theorem State.SameReads.of_perform {s u t : State} {c : Command} (h : s.SameReads u) (hs : s.seeded = true)
    (hp : perform c u = .next t) (hnext : decode c ≠ .ok .next)
    (hcommit : decode c = .ok .commit → t.rspSt ≠ 0b00) :
    s.SameReads t.takeResponse ∧ s.Shows c ⟨t.rspSt, t.rspDat⟩ := by
  refine ⟨?_, h.shows (perform_shows (h.seeded.trans hs) hp)⟩
  rcases (performCase hp).reads_cases with hkeep | hd | ⟨hd, hok⟩
  · exact ⟨hkeep.S.trans h.S, hkeep.pos.trans h.pos, hkeep.seeded.trans h.seeded⟩
  · exact absurd hd hnext
  · exact absurd hok (hcommit hd)

end Sys2Proof.Machine

namespace Sys2Proof.Proofs

open Sys2Proof.Machine

/-- Settles O11, by induction over the run: what a read shows stays as it was at the start. -/
theorem readsWithoutNextOrCommitAreOneSnapshot : Obligations.ReadsWithoutNextOrCommitAreOneSnapshot := by
  intro cs s t rs hs hrun hquiet
  obtain ⟨hsame, hanswered⟩ := runCommands_keeps (P := s.SameReads) (Q := s.Shows)
    (A := fun c r => decode c ≠ .ok .next ∧ (decode c = .ok .commit → r.st ≠ 0b00))
    (fun h hp ⟨hnext, hcommit⟩ => h.of_perform hs hp hnext hcommit) ⟨rfl, rfl, rfl⟩ hrun hquiet
  refine ⟨hanswered.length_eq, hsame.S, hsame.pos, fun k c i hk hd => ?_, fun k c hk hd => ?_⟩
  · obtain ⟨r, hr, hshows⟩ := hanswered.response k c hk
    rw [hr, hshows.getw i hd]
  · obtain ⟨r, hr, hshows⟩ := hanswered.response k c hk
    exact ⟨r, hr, hshows.status hd⟩

end Sys2Proof.Proofs
end

section
/-! PROOFS. The encoding and the command port (30_encoding.md): what a code decodes to, in numbers; commands that differ
in ignored data or in an earlier response; an edge with a response pending; the simulation of the clocked view by the
transaction view, edge by edge; the expansions of the pseudo-commands; then the obligations of that family. -/

namespace Sys2Proof

/-! ### Codes in numbers -/

theorem toNat_mkCode (op : BitVec 4) (idx : Index) : (mkCode op idx).toNat = 16 * op.toNat + idx.toNat := by
  rw [mkCode, BitVec.toNat_append, ← Nat.shiftLeft_add_eq_or_of_lt idx.isLt, Nat.shiftLeft_eq, Nat.mul_comm]

theorem toNat_opField (code : BitVec 8) : (opField code).toNat = code.toNat / 16 := by
  have h := toNat_mkCode (opField code) (idxField code)
  rw [mkCode_fields] at h
  omega

theorem toNat_code_getw (i : Index) : (encode (.getw i)).code.toNat = 0x20 + i.toNat := toNat_mkCode 0x2 i

theorem toNat_code_seedw (i : Index) (v : Word) : (encode (.seedw i v)).code.toNat = 0x30 + i.toNat :=
  toNat_mkCode 0x3 i

/-! ### What a command decodes to -/

theorem decode_code_of_encode (i : Instr) (d : Word) (hd : ∀ k v, i = .seedw k v → d = v) :
    decode ⟨(encode i).code, d⟩ = .ok i := by
  cases i with
  | nop => exact decode_nopCode d
  | next => exact decode_nextCode d
  | getw k => exact decode_getwCode k d
  | seedw k v => rw [← hd k v rfl]; exact decode_seedwCode k d
  | commit => exact decode_commitCode d
  | status => exact decode_statusCode d

/-- The decoder inverts the opcode map: a command decodes to `i` exactly when it carries `i`'s code and, for SEEDW, its
data word (R68, R69). -/
theorem decode_eq_ok_iff {c : Command} {i : Instr} :
    decode c = .ok i ↔ c.code = (encode i).code ∧ ∀ k v, i = .seedw k v → c.data = v := by
  constructor
  · intro h
    rcases decode_ok_cases h with ⟨hc, rfl⟩ | ⟨hc, rfl⟩ | ⟨k, hc, rfl⟩ | ⟨k, hc, rfl⟩ | ⟨hc, rfl⟩ | ⟨hc, rfl⟩
    case inr.inr.inr.inl => exact ⟨hc, fun _ _ hi => (Instr.seedw.inj hi).2⟩
    all_goals exact ⟨hc, fun _ _ hi => nomatch hi⟩
  · rintro ⟨hc, hd⟩
    have := decode_code_of_encode i c.data hd
    rwa [← hc] at this

theorem decode_eq_getw_iff {c : Command} {k : Index} :
    decode c = .ok (.getw k) ↔ c.code.toNat = 0x20 + k.toNat := by
  rw [decode_eq_ok_iff, ← BitVec.toNat_inj, toNat_code_getw]
  exact and_iff_left fun _ _ hi => nomatch hi

theorem decode_eq_seedw_iff {c : Command} {k : Index} {v : Word} :
    decode c = .ok (.seedw k v) ↔ c.code.toNat = 0x30 + k.toNat ∧ c.data = v := by
  rw [decode_eq_ok_iff, ← BitVec.toNat_inj, toNat_code_seedw]
  exact and_congr_right fun _ => ⟨fun h => h k v rfl, fun h _ _ hi => h.trans (Instr.seedw.inj hi).2⟩

/-- The command of an instruction without a data operand is known by its code alone (R69). -/
theorem decode_eq_ok_iff_code {c : Command} {i : Instr} (hi : ∀ k v, i ≠ .seedw k v) :
    decode c = .ok i ↔ c.code = (encode i).code :=
  decode_eq_ok_iff.trans (and_iff_left fun k v h => absurd h (hi k v))

/-- No instruction has a code in the five ranges of R70. -/
theorem not_reserved_of_decode_ok {c : Command} {i : Instr} (h : decode c = .ok i) :
    ¬ ((0x01 ≤ c.code.toNat ∧ c.code.toNat ≤ 0x0F) ∨ (0x11 ≤ c.code.toNat ∧ c.code.toNat ≤ 0x1F) ∨
      (0x41 ≤ c.code.toNat ∧ c.code.toNat ≤ 0x4F) ∨ (0x51 ≤ c.code.toNat ∧ c.code.toNat ≤ 0x5F) ∨
      0x60 ≤ c.code.toNat) := by
  rw [(decode_eq_ok_iff.1 h).1]
  cases i with
  | getw k => rw [toNat_code_getw]; omega
  | seedw k v => rw [toNat_code_seedw]; omega
  | _ => decide

theorem reject_of_decode_error {c : Command} {r : Reject} (h : decode c = .error r) : r = .reservedCode c.code := by
  unfold decode at h
  split_ifs at h
  exact (Except.error.inj h).symm

/-- Only SEEDW's row of the opcode map reads the data word (R69). -/
theorem decode_data_irrelevant {code : BitVec 8} (h : opField code ≠ 0x3) (d d' : Word) :
    decode ⟨code, d⟩ = decode ⟨code, d'⟩ := by
  simp only [decode, if_neg h]

/-- Whether a code is a command does not depend on the data word (R73). -/
theorem isOk_decode_data_irrelevant (code : BitVec 8) (d d' : Word) :
    (decode ⟨code, d⟩).isOk = (decode ⟨code, d'⟩).isOk := by
  by_cases h : opField code = 0x3
  · simp [decode, h, Except.isOk, Except.toBool]
  · rw [decode_data_irrelevant h d d']

end Sys2Proof

namespace Sys2Proof.Machine

/-! ### The command port -/

theorem cmdReady_of_rst_or_pending {e : Edge} {s : State} (h : e.rst = true ∨ s.rspPending = true) :
    cmdReady e s = false := by
  rcases h with h | h <;> simp [cmdReady, h]

theorem accepts_of_not_cmdReady {e : Edge} {s : State} (h : cmdReady e s = false) : accepts e s = false := by
  simp [accepts, h]

theorem accepts_of_cmdReady {e : Edge} {s : State} (hr : e.rst = false) (hv : e.cmdValid = true)
    (h : cmdReady e s = true) : accepts e s = true := by
  simp [accepts, hr, hv, h]

theorem clockEdge_of_accepts {e : Edge} {s : State} (h : accepts e s = true) :
    clockEdge e s = perform e.command s := by
  simp [clockEdge, h, ((accepts_iff e s).1 h).1]

/-! ### An edge as the host sees it -/

theorem edgeEvent_of_rst {e : Edge} (h : e.rst = true) (s : State) : edgeEvent e s = .reset := by
  simp [edgeEvent, h]

theorem edgeEvent_of_accepts {e : Edge} {s : State} (h : accepts e s = true) :
    edgeEvent e s = .accepted e.command := by
  simp [edgeEvent, h, ((accepts_iff e s).1 h).1]

theorem edgeEvent_of_takes {e : Edge} {s : State} (ha : accepts e s = false) (h : takes e s = true) :
    edgeEvent e s = .taken ⟨s.rspSt, s.rspDat⟩ := by
  simp [edgeEvent, ha, h, ((takes_iff e s).1 h).1]

theorem edgeEvent_of_quiet {e : Edge} {s : State} (hr : e.rst = false) (ha : accepts e s = false)
    (ht : takes e s = false) : edgeEvent e s = .quiet := by
  simp [edgeEvent, hr, ha, ht]

theorem transactionsOf_cons (ev : Event) (evs : List Event) :
    transactionsOf (ev :: evs) = transactionsOf [ev] ++ transactionsOf evs := by
  cases ev <;> rfl

theorem takenOf_cons (ev : Event) (evs : List Event) : takenOf (ev :: evs) = takenOf [ev] ++ takenOf evs := by
  cases ev <;> rfl

theorem State.heldResponse_of_pending {s : State} (h : s.rspPending = true) :
    s.heldResponse = some ⟨s.rspSt, s.rspDat⟩ := by
  simp [State.heldResponse, h]

theorem State.heldResponse_of_not_pending {s : State} (h : s.rspPending = false) : s.heldResponse = none := by
  simp [State.heldResponse, h]

@[simp] theorem State.heldResponse_passCycle (s : State) : s.passCycle.heldResponse = s.heldResponse := by
  simp [State.heldResponse]

/-! ### Commands do not read the response register -/

theorem State.SameButResponse.symm {s t : State} (h : s.SameButResponse t) : t.SameButResponse s :=
  ⟨h.S.symm, h.pos.symm, h.seeded.symm, h.Stage.symm, h.mask.symm, h.freeCount.symm, h.edges.symm⟩

theorem State.SameButResponse.resetEdge {s t : State} (h : s.SameButResponse t) :
    s.resetEdge.SameButResponse t.resetEdge :=
  ⟨h.S, rfl, rfl, h.Stage, rfl, congrArg (· + 1) h.freeCount, h.edges⟩

/-- The only difference `SameButResponse` allows. -/
theorem State.SameButResponse.eq_with {s t : State} (h : s.SameButResponse t) :
    t = { s with rspPending := t.rspPending, rspSt := t.rspSt, rspDat := t.rspDat, rspAge := t.rspAge } := by
  obtain ⟨hS, hpos, hseeded, hStage, hmask, hfree, hedges⟩ := h
  simp only [← hS, ← hpos, ← hseeded, ← hStage, ← hmask, ← hfree, ← hedges]

/-- A response overwrites the whole response register, so what it held before is lost (R162). -/
theorem State.SameButResponse.respond_eq {s t : State} (h : s.SameButResponse t) (st : Status) (d : Word) :
    s.respond st d = t.respond st d := by
  rw [h.eq_with]
  rfl

theorem exec_eq_of_sameButResponse {s t : State} (h : s.SameButResponse t) (i : Instr) : exec i s = exec i t := by
  rw [h.eq_with]
  cases i <;> rfl

/-- What an accepted command does and answers depends on no earlier response (R160). -/
theorem perform_eq_of_sameButResponse {s t : State} (h : s.SameButResponse t) (c : Command) :
    perform c s = perform c t := by
  cases hd : decode c with
  | ok i => rw [perform_of_decode_ok hd, perform_of_decode_ok hd, exec_eq_of_sameButResponse h]
  | error r =>
    rw [perform_of_decode_error hd, perform_of_decode_error hd]
    exact congrArg _ (h.respond_eq .errIllegal 0)

/-! ### The transaction view simulates the clocked view -/

theorem runTransactions_append {ts ts' : List Transaction} {s t u : State} {rs rs' : List Response}
    (h : runTransactions ts s = .next (t, rs)) (h' : runTransactions ts' t = .next (u, rs')) :
    runTransactions (ts ++ ts') s = .next (u, rs ++ rs') := by
  induction ts generalizing s rs with
  | nil => cases h; exact h'
  | cons x ts ih =>
    cases x with
    | reset => exact ih h
    | command c =>
      obtain ⟨s', hs', _⟩ := perform_next c s
      simp only [List.cons_append, runTransactions, hs'] at h ⊢
      split at h
      · cases h
      · cases h
      · next hrest =>
        cases h
        rw [ih hrest]
        rfl

theorem runTransactions_command {c : Command} {s t : State} (h : perform c s = .next t) :
    runTransactions [.command c] s = .next (t.takeResponse, [⟨t.rspSt, t.rspDat⟩]) := by
  simp [runTransactions, h]

/-- The account of a clocked run from `s` to `t`: what was pending at its start and what its transactions answered
(`rs`) are what the host took (`taken`) and what is pending at its end, in order; a reset may lose some of it, and no
more (R65, R67, R181). -/
structure Accounted (noReset : Prop) (s t : State) (taken rs : List Response) : Prop where
  sublist : (taken ++ t.heldResponse.toList).Sublist (s.heldResponse.toList ++ rs)
  exact_of_noReset : noReset → s.heldResponse.toList ++ rs = taken ++ t.heldResponse.toList

theorem Accounted.of_eq {s t : State} {taken rs : List Response} (noReset : Prop)
    (h : s.heldResponse.toList ++ rs = taken ++ t.heldResponse.toList) : Accounted noReset s t taken rs :=
  ⟨h ▸ List.Sublist.refl _, fun _ => h⟩

theorem Accounted.append {p q : Prop} {s t u : State} {taken taken' rs rs' : List Response}
    (h : Accounted p s t taken rs) (h' : Accounted q t u taken' rs') :
    Accounted (p ∧ q) s u (taken ++ taken') (rs ++ rs') where
  sublist := by
    calc taken ++ taken' ++ u.heldResponse.toList
      _ = taken ++ (taken' ++ u.heldResponse.toList) := List.append_assoc ..
      List.Sublist _ (taken ++ (t.heldResponse.toList ++ rs')) := h'.sublist.append_left taken
      _ = (taken ++ t.heldResponse.toList) ++ rs' := (List.append_assoc ..).symm
      List.Sublist _ ((s.heldResponse.toList ++ rs) ++ rs') := h.sublist.append_right rs'
      _ = s.heldResponse.toList ++ (rs ++ rs') := List.append_assoc ..
  exact_of_noReset hpq := by
    rw [← List.append_assoc, h.exact_of_noReset hpq.1, List.append_assoc, h'.exact_of_noReset hpq.2,
      List.append_assoc]

/-- R67 as a step: an edge makes at most one transaction, and the transaction view follows it. -/
theorem clockEdge_simulated (e : Edge) {s v : State} (h : v.SameButResponse s) :
    ∃ t w rs, clockEdge e s = .next t ∧ runTransactions (transactionsOf [edgeEvent e s]) v = .next (w, rs) ∧
      w.SameButResponse t ∧ Accounted (e.rst = false) s t (takenOf [edgeEvent e s]) rs := by
  obtain ⟨t, ht, hcases⟩ := edge_cases e s
  rcases hcases with ⟨hr, rfl⟩ | ⟨ha, hp⟩ | ⟨ha, hk, rfl⟩ | ⟨hr, ha, hk, rfl⟩
  · rw [edgeEvent_of_rst hr]
    exact ⟨_, v.resetEdge, [], ht, rfl, h.resetEdge, List.nil_sublist _, fun hr' => absurd (hr.symm.trans hr') nofun⟩
  · rw [edgeEvent_of_accepts ha]
    obtain ⟨_, _, hidle, _⟩ := (accepts_iff e s).1 ha
    obtain ⟨t', ht', hpending, _⟩ := perform_next e.command s
    obtain rfl : t' = t := by simpa [ht'] using hp
    have hv := (perform_eq_of_sameButResponse h e.command).trans hp
    refine ⟨t', _, _, ht, runTransactions_command hv, t'.takeResponse_sameButResponse.symm, .of_eq _ ?_⟩
    rw [State.heldResponse_of_not_pending hidle, State.heldResponse_of_pending hpending]
    rfl
  · rw [edgeEvent_of_takes ha hk]
    obtain ⟨_, hpending, _⟩ := (takes_iff e s).1 hk
    refine ⟨_, v, [], ht, rfl, h.trans s.takeResponse_sameButResponse, .of_eq _ ?_⟩
    rw [State.heldResponse_of_pending hpending, State.heldResponse_of_not_pending s.takeResponse_rspPending]
    rfl
  · rw [edgeEvent_of_quiet hr ha hk]
    refine ⟨_, v, [], ht, rfl, h.trans s.passCycle_sameButResponse, .of_eq _ ?_⟩
    rw [State.heldResponse_passCycle]
    exact List.append_nil _

/-- R67 over a clocked run, by induction over its edges: the transaction view follows each of them. -/
theorem runEdges_simulated (es : List Edge) : ∀ {s v : State}, v.SameButResponse s →
    ∃ t evs w rs, runEdges es s = .next (t, evs) ∧ evs.length = es.length ∧
      runTransactions (transactionsOf evs) v = .next (w, rs) ∧ w.SameButResponse t ∧
      Accounted (∀ e ∈ es, e.rst = false) s t (takenOf evs) rs := by
  induction es with
  | nil => exact fun {s v} h => ⟨s, [], v, [], rfl, rfl, rfl, h, .of_eq _ (List.append_nil _)⟩
  | cons e es ih =>
    intro s v h
    obtain ⟨t, w, rs, ht, hw, hsame, hacc⟩ := clockEdge_simulated e h
    obtain ⟨t', evs, w', rs', hrun, hlen, hw', hsame', hacc'⟩ := ih hsame
    refine ⟨t', edgeEvent e s :: evs, w', rs ++ rs', runEdges_cons ht hrun, congrArg (· + 1) hlen, ?_, hsame', ?_⟩
    · rw [transactionsOf_cons]
      exact runTransactions_append hw hw'
    · rw [takenOf_cons, List.forall_mem_cons]
      exact hacc.append hacc'

/-! ### Expansions of the pseudo-commands -/

theorem getElem?_allIndices {i : Nat} (h : i < 16) : allIndices[i]? = some (BitVec.ofNat 4 i) := by
  simp [allIndices, h]

theorem length_allIndices : allIndices.length = 16 := by decide

/-- An expansion of R76 of 17 commands: `f i` at each index in order, then `last`. -/
structure ExpandsTo (cs : List Command) (f : Index → Command) (last : Command) : Prop where
  length_eq : cs.length = 17
  getElem?_last : cs[16]? = some last
  getElem?_lt : ∀ i < 16, cs[i]? = some (f (BitVec.ofNat 4 i))

theorem expandsTo_map_allIndices (f : Index → Command) (last : Command) :
    ExpandsTo (allIndices.map f ++ [last]) f last where
  length_eq := by simp [length_allIndices]
  getElem?_last := by simp [length_allIndices]
  getElem?_lt i hi := by
    rw [List.getElem?_append_left (by simpa [length_allIndices] using hi), List.getElem?_map, getElem?_allIndices hi]
    rfl

theorem setSeedCommands_expandsTo (b : Bank) :
    ExpandsTo (setSeedCommands b) (fun i => encode (.seedw i (bankRead b i))) (encode .commit) :=
  expandsTo_map_allIndices _ _

theorem getStateCommands_expandsTo :
    ExpandsTo getStateCommands (fun i => encode (.getw i)) (encode .status) :=
  expandsTo_map_allIndices _ _

theorem toNat_ofNat_index {i : Nat} (h : i < 16) : (BitVec.ofNat 4 i).toNat = i :=
  Nat.mod_eq_of_lt h

theorem bankRead_rotate (p : Index) (g : Bank) (i : Index) : bankRead (rotate p g) i = bankRead g (i + p) := by
  simp only [bankRead, rotate, Vector.getElem_ofFn]
  rfl

theorem seedOk_iff {w : List Nat} : seedOk w = true ↔ w.length = 16 ∧ ∀ v ∈ w, v < 2 ^ 64 := by
  simp [seedOk, valueOk]

/-- The words written in a line are those of the bank it stands for. -/
theorem getElem?_eq_bankRead_bankOfNats {w : List Nat} (h : seedOk w = true) (i : Index) :
    w[i.toNat]? = some (bankRead (bankOfNats w) i).toNat := by
  obtain ⟨hlen, hval⟩ := seedOk_iff.1 h
  have hi : i.toNat < w.length := hlen ▸ i.isLt
  have hv : w[i.toNat] < 2 ^ 64 := hval _ (List.getElem_mem hi)
  simpa [bankRead, bankOfNats, hi] using (Nat.mod_eq_of_lt hv).symm

end Sys2Proof.Machine

namespace Sys2Proof.Proofs

open Sys2Proof.Machine

/-- Settles O19: the simulation of the clocked run by the transaction view, from a state with no response pending. -/
theorem clockedRunRefinesTheTransactionView : Obligations.ClockedRunRefinesTheTransactionView := by
  intro es s hidle
  obtain ⟨t, evs, u, rs, hrun, hlen, htrans, hsame, hacc⟩ := runEdges_simulated es (.refl s)
  have hnone : s.heldResponse.toList = [] := by rw [State.heldResponse_of_not_pending hidle]; rfl
  obtain ⟨hsub, hexact⟩ := hacc
  rw [hnone, List.nil_append] at hsub hexact
  exact ⟨t, evs, u, rs, hrun, hlen, htrans, hsame, (List.sublist_append_left _ _).trans hsub, hexact⟩

/-- Settles O15: with a response pending an edge takes it or lets a cycle pass. -/
theorem noCommandIsAcceptedWhileAResponseIsPending : Obligations.NoCommandIsAcceptedWhileAResponseIsPending := by
  refine ⟨fun e s h => ?_, fun e s hr hpending => ?_, fun e s _ _ => ⟨false, by simp [cmdReady]⟩⟩
  · have hready := cmdReady_of_rst_or_pending h
    exact ⟨hready, accepts_of_not_cmdReady hready⟩
  · obtain ⟨t, ht, hcases⟩ := edge_cases e s
    refine ⟨t, ht, ?_⟩
    rcases hcases with ⟨hr', _⟩ | ⟨ha, _⟩ | ⟨_, hk, rfl⟩ | ⟨_, _, _, rfl⟩
    · exact absurd (hr.symm.trans hr') nofun
    · have hno := accepts_of_not_cmdReady (cmdReady_of_rst_or_pending (e := e) (.inr hpending))
      exact absurd (ha.symm.trans hno) nofun
    · exact ⟨s.takeResponse_sameButResponse, fun hk' => absurd (hk.symm.trans hk') nofun⟩
    · exact ⟨s.passCycle_sameButResponse, fun _ => ⟨by rw [State.passCycle_rspPending, hpending], by simp, by simp⟩⟩

/-- Settles O21: the decoder inverts the opcode map, and the codes it answers are counted. -/
theorem opcodeMapIsTheTable : Obligations.OpcodeMapIsTheTable := by
  refine ⟨fun c => decode_eq_ok_iff_code nofun, fun c => decode_eq_ok_iff_code nofun, fun c i => decode_eq_getw_iff,
    fun c i v => decode_eq_seedw_iff, fun c => decode_eq_ok_iff_code nofun, fun c => decode_eq_ok_iff_code nofun,
    fun d => ?_⟩
  simp only [isOk_decode_data_irrelevant _ d 0]
  decide +kernel

/-- Settles O22: the index is the code's remainder by 16, and outside SEEDW's row the data word is not read. -/
theorem operandsComeFromTheirFields : Obligations.OperandsComeFromTheirFields := by
  refine ⟨fun c i h => ?_, fun c i v h => ?_, fun code d d' s h => ?_⟩
  · have := decode_eq_getw_iff.1 h
    omega
  · obtain ⟨hcode, hdata⟩ := decode_eq_seedw_iff.1 h
    exact ⟨by omega, hdata.symm⟩
  · have hop : opField code ≠ 0x3 := fun h3 => h ((toNat_opField code).symm.trans (congrArg _ h3))
    have hd := decode_data_irrelevant hop d d'
    exact ⟨hd, by rw [perform, perform, hd]⟩

/-- Settles O23: no instruction has a reserved code, so the decoder rejects it and ERR_ILLEGAL is raised. -/
theorem reservedCodesRaiseErrIllegal : Obligations.ReservedCodesRaiseErrIllegal := by
  intro c s hreserved
  have herror : decode c = .error (.reservedCode c.code) := by
    cases hd : decode c with
    | ok i => exact absurd hreserved (not_reserved_of_decode_ok hd)
    | error r => rw [reject_of_decode_error hd]
  exact ⟨herror, _, perform_of_decode_error herror s, ⟨rfl, rfl, rfl⟩, s.raise_sameButResponse .errIllegal⟩

/-- Settles O24: an error answers data 0, and each command performed answers its own data. -/
theorem responseDataOfEveryCommand : Obligations.ResponseDataOfEveryCommand := by
  intro i s
  rcases exec_cases i s with ⟨_, _, h⟩ | ⟨_, _, h⟩ | ⟨rfl, h⟩ | ⟨_, rfl, h⟩ | ⟨_, k, rfl, h⟩ | ⟨k, v, rfl, h⟩ |
    ⟨_, rfl, h⟩ | ⟨rfl, h⟩
  case inl => exact ⟨_, h, fun _ => rfl, fun hok => absurd hok (show Status.errUnseeded.code ≠ 0b00 by decide)⟩
  case inr.inl =>
    exact ⟨_, h, fun _ => rfl, fun hok => absurd hok (show Status.errSeedIncomplete.code ≠ 0b00 by decide)⟩
  case inr.inr.inr.inl =>
    refine ⟨_, h, fun herr => absurd rfl herr, fun _ => ?_⟩
    simp [scramble, mult]
  all_goals exact ⟨_, h, fun herr => absurd rfl herr, fun _ => rfl⟩

/-- Settles O55, pseudo-command by pseudo-command; RESTORE is the SETSEED of the rotated words. -/
theorem pseudoCommandsExpandAsListed : Obligations.PseudoCommandsExpandAsListed := by
  refine ⟨fun w hw => ?_, ?_, fun p g hg => ?_, fun n => rfl⟩
  · obtain ⟨hlen, hlast, hget⟩ := setSeedCommands_expandsTo (bankOfNats w)
    refine ⟨hlen, hlast, fun i hi => ⟨_, hget i hi, ?_, ?_⟩⟩
    · rw [toNat_code_seedw, toNat_ofNat_index hi]
    · have hword := getElem?_eq_bankRead_bankOfNats hw (BitVec.ofNat 4 i)
      rwa [toNat_ofNat_index hi] at hword
  · obtain ⟨hlen, hlast, hget⟩ := getStateCommands_expandsTo
    refine ⟨hlen, hlast, fun i hi => ⟨_, hget i hi, ?_, rfl⟩⟩
    rw [toNat_code_getw, toNat_ofNat_index hi]
  · obtain ⟨_, hw⟩ : indexOk p = true ∧ seedOk g = true := by simpa [AsmLine.wellFormed] using hg
    obtain ⟨hlen, hlast, hget⟩ := setSeedCommands_expandsTo (rotate (BitVec.ofNat 4 p) (bankOfNats g))
    refine ⟨hlen, hlast, fun i hi => ⟨_, hget i hi, ?_, ?_⟩⟩
    · rw [toNat_code_seedw, toNat_ofNat_index hi]
    · have hword := getElem?_eq_bankRead_bankOfNats hw (BitVec.ofNat 4 i + BitVec.ofNat 4 p)
      rwa [← bankRead_rotate, BitVec.ofNat_add_ofNat, BitVec.toNat_ofNat] at hword

/-- Settles O12: the accepted command's transition is the meaning of what it decodes to, or ERR_ILLEGAL. -/
theorem stepRunsTheDecodedCommand : Obligations.StepRunsTheDecodedCommand := by
  intro s e rest hedges hr hvalid hready
  have hperform : step s = perform ⟨e.cmdCode, e.cmdData⟩ (s.setEdges rest) := by
    rw [step_cons hedges]
    exact clockEdge_of_accepts (accepts_of_cmdReady hr hvalid hready)
  refine ⟨fun i hd => ?_, fun r hd => ⟨_, ?_, ⟨rfl, rfl, rfl⟩, State.raise_sameButResponse _ .errIllegal⟩⟩
  · rw [hperform, perform_of_decode_ok hd]
  · rw [hperform, perform_of_decode_error hd]

end Sys2Proof.Proofs
end

section
/-! PROOFS. The bit engine (40_bit_engine.md): what NEXT leaves of a seeded state, runs of draws, NEXT on rotated states,
the mixing function as an invertible map of its second operand, the inverse of the output scrambler; then the
obligations of that family. -/

namespace Sys2Proof.Machine

/-! ### What NEXT does -/

/-- `t` is the seeded state `s` after one draw (R100): what is written, what is answered, and the frame. -/
structure State.Draws (s t : State) : Prop where
  word : t.readS (s.pos + 1) = mix (s.readS s.pos) (s.readS (s.pos + 1))
  other : ∀ j : Index, j ≠ s.pos + 1 → t.readS j = s.readS j
  pos : t.pos = s.pos + 1
  responded : t.Responded 0b00 (scramble (t.readS (s.pos + 1)))
  seeded : t.seeded = s.seeded
  Stage : t.Stage = s.Stage
  mask : t.mask = s.mask
  freeCount : t.freeCount = s.freeCount
  edges : t.edges = s.edges

theorem exec_next_draws {s : State} (hs : s.seeded = true) : ∃ t, exec .next s = .next t ∧ s.Draws t := by
  refine ⟨_, execNext_seeded hs, ?word, fun j hj => ?other, rfl, ⟨rfl, rfl, ?dat⟩, rfl, rfl, rfl, rfl, rfl⟩
  case word => exact bankRead_bankWrite_same _ _ _
  case other => exact bankRead_bankWrite_other _ _ hj
  case dat => exact congrArg scramble (bankRead_bankWrite_same _ _ _).symm

theorem draws_of_exec_next {s t : State} (hs : s.seeded = true) (h : exec .next s = .next t) : s.Draws t := by
  obtain ⟨t', ht', hdraw⟩ := exec_next_draws hs
  rw [h] at ht'
  cases ht'
  exact hdraw

/-- NEXT never writes its source word (R103). -/
theorem State.Draws.source {s t : State} (h : s.Draws t) : t.readS s.pos = s.readS s.pos :=
  h.other _ (ne_nextPos s.pos)

theorem perform_next_draws {s : State} (hs : s.seeded = true) (d : Word) :
    ∃ t, perform ⟨0x10, d⟩ s = .next t ∧ s.Draws t := by
  obtain ⟨t, ht, hdraw⟩ := exec_next_draws hs
  exact ⟨t, (perform_of_decode_ok (decode_nextCode d) s).trans ht, hdraw⟩

/-! ### Runs of draws -/

theorem runCommands_append {cs cs' : List Command} {s t u : State} {rs rs' : List Response}
    (h : runCommands cs s = .next (t, rs)) (h' : runCommands cs' t = .next (u, rs')) :
    runCommands (cs ++ cs') s = .next (u, rs ++ rs') := by
  rw [runCommands, List.map_append]
  exact runTransactions_append h h'

/-- `n` draws advance the position by `n` modulo 16 (R104). -/
theorem runCommands_replicate_next_pos (n : Nat) : ∀ {s : State}, s.seeded = true →
    ∃ t rs, runCommands (List.replicate n ⟨0x10, 0⟩) s = .next (t, rs) ∧ t.seeded = true ∧
      t.pos.toNat = (s.pos.toNat + n) % 16 := by
  induction n with
  | zero => exact fun {s} hs => ⟨s, [], rfl, hs, (Nat.mod_eq_of_lt s.pos.isLt).symm⟩
  | succ n ih =>
    intro s hs
    obtain ⟨t, ht, hdraw⟩ := perform_next_draws hs 0
    obtain ⟨u, rs, hu, hus, hpos⟩ := ih (s := t.takeResponse) (hdraw.seeded.trans hs)
    refine ⟨u, _, runCommands_cons ht hu, hus, ?_⟩
    have hstep : t.pos.toNat = (s.pos.toNat + 1) % 16 := by rw [hdraw.pos, BitVec.toNat_add]; rfl
    rw [hpos, State.takeResponse_pos]
    omega

/-! ### NEXT on rotated states -/

/-- The step of R110: the draws of two rotated states answer alike and leave rotated states. -/
theorem State.Rotated.draws {p : Index} {s t s' t' : State} (h : State.Rotated p s t) (hs : s.Draws s')
    (ht : t.Draws t') : State.Rotated p s' t' ∧ s'.rspDat = t'.rspDat := by
  have hdest : s.pos + 1 = t.pos + 1 + p := by rw [h.pos, add_right_comm]
  have hword : t'.readS (t.pos + 1) = s'.readS (s.pos + 1) := by
    rw [ht.word, hs.word, h.words, h.words, ← h.pos, ← hdest]
  refine ⟨⟨fun i => ?_, ?_, hs.seeded.trans h.seeded.1, ht.seeded.trans h.seeded.2⟩, ?_⟩
  · by_cases hi : i = t.pos + 1
    · rw [hi, hword, hdest]
    · rw [ht.other i hi, h.words, hs.other]
      exact fun heq => hi (add_right_cancel (heq.trans hdest))
  · rw [hs.pos, ht.pos, hdest]
  · rw [hs.responded.dat, ht.responded.dat, hword]

/-- R110 over a run, by induction on the number of draws. -/
theorem State.Rotated.runCommands_replicate_next {p : Index} (n : Nat) : ∀ {s t : State}, State.Rotated p s t →
    ∃ s' t' rs, runCommands (List.replicate n ⟨0x10, 0⟩) s = .next (s', rs) ∧
      runCommands (List.replicate n ⟨0x10, 0⟩) t = .next (t', rs) ∧ rs.length = n ∧ (∀ r ∈ rs, r.st = 0b00) ∧
      State.Rotated p s' t' := by
  induction n with
  | zero => exact fun {s t} h => ⟨s, t, [], rfl, rfl, rfl, nofun, h⟩
  | succ n ih =>
    intro s t h
    obtain ⟨s₁, hs₁, hdraw⟩ := perform_next_draws h.seeded.1 0
    obtain ⟨t₁, ht₁, hdraw'⟩ := perform_next_draws h.seeded.2 0
    obtain ⟨⟨hwords, hpos, hseeded⟩, hdat⟩ := h.draws hdraw hdraw'
    obtain ⟨s', t', rs, hs', ht', hlen, hok, hrot⟩ :=
      ih (s := s₁.takeResponse) (t := t₁.takeResponse) ⟨hwords, hpos, hseeded⟩
    have hresp : (⟨s₁.rspSt, s₁.rspDat⟩ : Response) = ⟨t₁.rspSt, t₁.rspDat⟩ := by
      rw [hdraw.responded.st, hdraw'.responded.st, hdat]
    refine ⟨s', t', _, runCommands_cons hs₁ hs', hresp ▸ runCommands_cons ht₁ ht', congrArg (· + 1) hlen, ?_, hrot⟩
    exact List.forall_mem_cons.2 ⟨hdraw.responded.st, hok⟩

/-! ### The mixing function is invertible in its second operand -/

/-- A word mixed with its own left shift, the first update of `s1` in R100 step 4. -/
def xorShiftLeft (a : Nat) (x : Word) : Word := x ^^^ (x <<< a)

/-- A word mixed with its own right shift, the update of `s0` and the second one of `s1` in R100 step 4. -/
def xorShiftRight (a : Nat) (x : Word) : Word := x ^^^ (x >>> a)

theorem mixS0_eq : mixS0 = xorShiftRight shiftC := rfl

theorem mixS1_eq_comp : mixS1 = xorShiftRight shiftB ∘ xorShiftLeft shiftA := rfl

theorem xor_xor_xor_cancel (x y z : Word) : (x ^^^ y) ^^^ (y ^^^ z) = x ^^^ z := by
  rw [BitVec.xor_assoc, ← BitVec.xor_assoc y, BitVec.xor_self, BitVec.zero_xor]

theorem xorShiftLeft_comp_self (a : Nat) : xorShiftLeft a ∘ xorShiftLeft a = xorShiftLeft (a + a) := by
  funext x
  simp only [Function.comp, xorShiftLeft, BitVec.shiftLeft_xor_distrib, BitVec.shiftLeft_add, xor_xor_xor_cancel]

theorem xorShiftRight_comp_self (a : Nat) : xorShiftRight a ∘ xorShiftRight a = xorShiftRight (a + a) := by
  funext x
  simp only [Function.comp, xorShiftRight, BitVec.ushiftRight_xor_distrib, BitVec.shiftRight_add, xor_xor_xor_cancel]

theorem xorShiftLeft_of_wide (a : Nat) (h : 64 ≤ a) : xorShiftLeft a = id := by
  funext x
  rw [xorShiftLeft, BitVec.shiftLeft_eq_zero h, BitVec.xor_zero, id]

theorem xorShiftRight_of_wide (a : Nat) (h : 64 ≤ a) : xorShiftRight a = id := by
  funext x
  rw [xorShiftRight, BitVec.ushiftRight_eq_zero h, BitVec.xor_zero, id]

/-- Where a shift done twice is the doubled shift, it is one to one: a map is if its square is, and the shift doubles
until nothing of the word is left to move (R107). -/
theorem injective_of_comp_self {f : Nat → Word → Word} (hcomp : ∀ a, f a ∘ f a = f (a + a))
    (hwide : ∀ a, 64 ≤ a → f a = id) (a : Nat) (ha : 0 < a) : Function.Injective (f a) := by
  by_cases h : 64 ≤ a
  · exact hwide a h ▸ Function.injective_id
  · refine Function.Injective.of_comp (f := f a) ?_
    rw [hcomp]
    exact injective_of_comp_self hcomp hwide (a + a) (by omega)
termination_by 64 - a

theorem mixS1_injective : Function.Injective mixS1 :=
  (injective_of_comp_self xorShiftRight_comp_self xorShiftRight_of_wide shiftB (by decide)).comp
    (injective_of_comp_self xorShiftLeft_comp_self xorShiftLeft_of_wide shiftA (by decide))

theorem mix_injective (s0 : Word) : Function.Injective (mix s0) :=
  fun _ _ h => mixS1_injective ((BitVec.xor_right_inj _).1 h)

theorem mix_surjective (s0 : Word) : Function.Surjective (mix s0) :=
  Finite.surjective_of_injective (mix_injective s0)

/-! ### NEXT is invertible -/

/-- A draw loses nothing: the words and the position before it are known from those after it (R107). -/
theorem State.Draws.injective {s t s' t' : State} (hs : s.Draws s') (ht : t.Draws t') (hS : s'.S = t'.S)
    (hpos : s'.pos = t'.pos) : s.S = t.S ∧ s.pos = t.pos := by
  have hp : s.pos = t.pos := add_right_cancel (hs.pos.symm.trans (hpos.trans ht.pos))
  have hread : ∀ i, s'.readS i = t'.readS i := fun i => by rw [State.readS, hS, State.readS]
  have hother : ∀ i, i ≠ s.pos + 1 → s.readS i = t.readS i := fun i hi => by
    rw [← hs.other i hi, hread, ht.other i (hp ▸ hi)]
  have hdest : s.readS (s.pos + 1) = t.readS (s.pos + 1) := by
    have hmix := hread (s.pos + 1)
    rw [hs.word, hp, ht.word, ← hp, hother _ (ne_nextPos s.pos)] at hmix
    exact mix_injective _ hmix
  refine ⟨bank_ext fun i => ?_, hp⟩
  by_cases hi : i = s.pos + 1
  · exact hi ▸ hdest
  · exact hother i hi

/-- No state with a nonzero word is drawn to the all-zero state: `mix 0` takes only 0 to 0 (R107). -/
theorem State.Draws.allZero_of_allZero {s t : State} (h : s.Draws t) (hz : t.AllZero) : s.AllZero := by
  have hother : ∀ i, i ≠ s.pos + 1 → s.readS i = 0 := fun i hi => (h.other i hi).symm.trans (hz i)
  intro i
  by_cases hi : i = s.pos + 1
  · have hmix := h.word
    rw [hz, hother _ (ne_nextPos s.pos), ← mix_zero] at hmix
    exact hi ▸ (mix_injective 0 hmix).symm
  · exact hother i hi

/-- A seeded state at position `p - 1` with the words of `b`, but for word `p`, which is `w`. -/
def State.beforeDraw (b : Bank) (p : Index) (w : Word) : State :=
  { State.reset with S := bankWrite b p w, pos := p - 1, seeded := true }

/-- A draw leads to every bank and position: the word it mixes away can be solved for (R107). -/
theorem exists_draws_to (b : Bank) (p : Index) :
    ∃ s t, s.seeded = true ∧ exec .next s = .next t ∧ t.S = b ∧ t.pos = p := by
  have hp : p - 1 + 1 = p := sub_add_cancel p 1
  have hsource : p - 1 ≠ p := fun h => nextPos_ne (p - 1) (hp.trans h.symm)
  obtain ⟨w, hw⟩ := mix_surjective (bankRead b (p - 1)) (bankRead b p)
  obtain ⟨t, ht, hdraw⟩ := exec_next_draws (s := .beforeDraw b p w) rfl
  refine ⟨_, t, rfl, ht, bank_ext fun i => ?_, hdraw.pos.trans hp⟩
  by_cases hi : i = p
  · subst hi
    have hword := hdraw.word
    simp only [State.beforeDraw, hp, State.readS, bankRead_bankWrite_same, bankRead_bankWrite_other _ _ hsource,
      hw] at hword
    exact hword
  · exact (hdraw.other i fun h => hi (h.trans hp)).trans (bankRead_bankWrite_other _ _ hi)

/-! ### The mixing function and the scrambler in numbers -/

theorem toNat_xorShiftLeft (a : Nat) (x : Word) :
    (xorShiftLeft a x).toNat = x.toNat ^^^ x.toNat * 2 ^ a % 2 ^ 64 := by
  rw [xorShiftLeft, BitVec.toNat_xor, BitVec.toNat_shiftLeft, Nat.shiftLeft_eq]

theorem toNat_xorShiftRight (a : Nat) (x : Word) :
    (xorShiftRight a x).toNat = x.toNat ^^^ x.toNat / 2 ^ a := by
  rw [xorShiftRight, BitVec.toNat_xor, BitVec.toNat_ushiftRight, Nat.shiftRight_eq_div_pow]

/-- The inverse of MULT modulo 2^64 (R109). -/
def multInv : Word := 0xBB91F78BDAC4C89D

theorem mult_mul_multInv : mult * multInv = 1 := by decide

theorem scramble_mul_multInv (w : Word) : scramble w * multInv = w := by
  rw [scramble, mul_assoc, mult_mul_multInv, mul_one]

theorem scramble_bijective : Function.Bijective scramble := by
  refine Function.bijective_iff_has_inverse.2 ⟨(· * multInv), scramble_mul_multInv, fun w => ?_⟩
  rw [scramble, mul_assoc, mul_comm multInv, mult_mul_multInv, mul_one]

end Sys2Proof.Machine

namespace Sys2Proof.Proofs

open Sys2Proof.Machine

/-- Settles O37, by induction on the number of draws: `State.Rotated` is kept by each pair of draws. -/
theorem rotatedStatesDrawTheSameStream : Obligations.RotatedStatesDrawTheSameStream :=
  fun _ _ _ n h => h.runCommands_replicate_next n

/-- Settles O29: a seeded NEXT draws, and an unseeded one raises ERR_UNSEEDED. -/
theorem nextDrawsAndAdvances : Obligations.NextDrawsAndAdvances := by
  refine ⟨decode_nextCode, fun s hs => ?_,
    fun s hs => ⟨_, execNext_unseeded hs, ⟨rfl, rfl, rfl⟩, s.raise_sameButResponse .errUnseeded⟩⟩
  obtain ⟨t, ht, hdraw⟩ := exec_next_draws hs
  refine ⟨t, ht, ?_, hdraw.responded, hdraw.pos, hdraw.other, hdraw.seeded, hdraw.Stage, hdraw.mask,
    hdraw.freeCount, hdraw.edges⟩
  rintro s0 s1 rfl rfl
  exact hdraw.word

/-- Settles O30: each shift is a product or a quotient by its power of two. -/
theorem mixInNaturalNumberArithmetic : Obligations.MixInNaturalNumberArithmetic := by
  refine ⟨fun s0 s1 t ht => ?_, fun s hs => ?_⟩
  · rw [mix, mixS0_eq, mixS1_eq_comp, Function.comp, BitVec.toNat_xor, toNat_xorShiftRight, toNat_xorShiftRight,
      toNat_xorShiftLeft, ht]
    rfl
  · obtain ⟨t, ht, hdraw⟩ := exec_next_draws hs
    exact ⟨t, ht, hdraw.word⟩

/-- Settles O31: NEXT answers the scrambled word it stored, and stores the mix itself. -/
theorem outputIsTheScrambledStoredWord : Obligations.OutputIsTheScrambledStoredWord := by
  intro s hs
  obtain ⟨t, ht, hdraw⟩ := exec_next_draws hs
  refine ⟨t, ht, ?_, ?_⟩
  · rw [hdraw.responded.dat, hdraw.pos, scramble, BitVec.toNat_mul]
    rfl
  · rw [hdraw.pos, hdraw.word]

/-- Settles O32: the frame of NEXT's words, its source among them since `pos + 1 ≠ pos`. -/
theorem nextWritesOneWordAndKeepsItsSource : Obligations.NextWritesOneWordAndKeepsItsSource := by
  intro s hs
  obtain ⟨t, ht, hdraw⟩ := exec_next_draws hs
  exact ⟨ne_nextPos s.pos, t, ht, hdraw.source, hdraw.word, hdraw.other⟩

/-- Settles O33: the wrap is the 4-bit increment; after a COMMIT the position counts the draws modulo 16. -/
theorem positionWrapsAndDrawsWriteInTurn : Obligations.PositionWrapsAndDrawsWriteInTurn := by
  refine ⟨fun s hs hpos => ?_, fun s k hmask => ?_⟩
  · obtain ⟨t, ht, hdraw⟩ := exec_next_draws hs
    have hwrap : s.pos + 1 = 0 := by rw [hpos]; rfl
    refine ⟨t, ht, hdraw.pos.trans hwrap, ?_⟩
    rw [← hwrap, hdraw.word, hpos]
  · have hcommit := (perform_of_decode_ok (decode_commitCode 0) s).trans
      (execCommit_full (s.maskFull_iff_mask_eq.2 hmask))
    obtain ⟨t, rs, ht, hts, htpos⟩ := runCommands_replicate_next_pos k
      (s := (((((s.loadS s.Stage).setPos 0).setSeeded true).setMask 0).respond .ok 0).takeResponse) rfl
    have hfirst := runCommands_cons hcommit ht
    obtain ⟨u, hu, hdraw⟩ := perform_next_draws hts 0
    have hlast := runCommands_append hfirst (runCommands_cons hu (runCommands_nil _))
    rw [List.cons_append, ← List.replicate_succ'] at hlast
    have htpos' : t.pos.toNat = k % 16 := by simpa using htpos
    have hupos : u.pos.toNat = (k + 1) % 16 := by rw [hdraw.pos, BitVec.toNat_add, htpos']; simp
    refine ⟨t, u.takeResponse, _, _, hfirst, hlast, htpos', hupos, ?_, fun j hj => ?_⟩
    · rw [State.takeResponse_pos, hdraw.pos]
      exact hdraw.word
    · exact hdraw.other j fun hj' => hj (by rw [hj', ← hdraw.pos, hupos])

/-- Settles O35: the fixed point, then the step map one to one and onto, since `mix` is in its second operand. -/
theorem nextIsInvertibleAndKeepsNonzero : Obligations.NextIsInvertibleAndKeepsNonzero := by
  refine ⟨fun s hs hz => ?_, fun s hnz => ?_, fun s s' t t' hs ht hs' ht' hS hpos => ?_, exists_draws_to⟩
  · obtain ⟨t, ht, hresp, htz, _⟩ := exec_next_of_allZero hs hz
    have hdraw := draws_of_exec_next hs ht
    exact ⟨t, ht, hresp, bank_ext fun i => (htz i).trans (hz i).symm, hdraw.pos, hdraw.seeded, hdraw.Stage,
      hdraw.mask⟩
  · cases hs : s.seeded with
    | false => exact ⟨_, execNext_unseeded hs, hnz⟩
    | true =>
      obtain ⟨t, ht, hdraw⟩ := exec_next_draws hs
      exact ⟨t, ht, fun htz => hnz (hdraw.allZero_of_allZero htz)⟩
  · exact (draws_of_exec_next hs hs').injective (draws_of_exec_next ht ht') hS hpos

/-- Settles O36: MULT has an inverse modulo 2^64, which takes the output back to the stored word. -/
theorem outputDeterminesTheStoredWord : Obligations.OutputDeterminesTheStoredWord := by
  refine ⟨scramble_bijective, fun s hs => ?_⟩
  obtain ⟨t, ht, hdraw⟩ := exec_next_draws hs
  refine ⟨t, ht, ?_⟩
  rw [hdraw.pos, hdraw.responded.dat]
  exact (scramble_mul_multInv _).symm

end Sys2Proof.Proofs
end

section
/-! PROOFS. State access and seeding (41_state_access.md): the code of an indexed command, what SEEDW leaves of the
staging words and their mask bits, runs that stage a seed and commit it, runs of GETW, one draw; then the obligations of
that family. -/

namespace Sys2Proof

/-! ### The code of an indexed command -/

/-- The two fields of a code in place (R68). -/
theorem mkCode_eq_or (op : BitVec 4) (idx : Index) : mkCode op idx = op.setWidth 8 <<< 4 ||| idx.setWidth 8 := by
  rw [mkCode, BitVec.append_def, BitVec.shiftLeftZeroExtend_eq, BitVec.setWidth'_eq]

theorem encode_seedw_eq (i : Index) (v : Word) : encode (.seedw i v) = ⟨0x30 ||| i.setWidth 8, v⟩ :=
  congrArg (Command.mk · v) (mkCode_eq_or 0x3 i)

end Sys2Proof

namespace Sys2Proof.Machine

/-! ### Staging one word -/

theorem bankWrite_bankWrite_same (b : Bank) (i : Index) (v w : Word) :
    bankWrite (bankWrite b i v) i w = bankWrite b i w :=
  Vector.set_set ..

theorem maskWith_maskWith_same (m : BitVec 16) (i : Index) : maskWith (maskWith m i) i = maskWith m i := by
  rw [maskWith, maskWith, BitVec.or_assoc, BitVec.or_self]

/-- `t` is `s` after `SEEDW i, v` (R122): what is staged, what is answered, and the frame. -/
structure State.Stages (i : Index) (v : Word) (s t : State) : Prop where
  word : t.readStage i = v
  bit : t.maskBit i = true
  other : ∀ j : Index, j ≠ i → t.readStage j = s.readStage j ∧ t.maskBit j = s.maskBit j
  responded : t.Responded 0b00 0
  S : t.S = s.S
  pos : t.pos = s.pos
  seeded : t.seeded = s.seeded
  freeCount : t.freeCount = s.freeCount
  edges : t.edges = s.edges

theorem exec_seedw_stages (i : Index) (v : Word) (s : State) :
    ∃ t, exec (.seedw i v) s = .next t ∧ s.Stages i v t := by
  refine ⟨_, rfl, ?word, ?bit, fun j hj => ⟨?otherWord, ?otherBit⟩, ⟨rfl, rfl, rfl⟩, rfl, rfl, rfl, rfl, rfl⟩
  case word => exact bankRead_bankWrite_same _ _ _
  case bit => exact (getLsbD_maskWith s.mask i i).trans (by simp)
  case otherWord => exact bankRead_bankWrite_other _ _ hj
  case otherBit => exact (getLsbD_maskWith s.mask i j).trans (by simp [hj, State.maskBit])

/-- Staging a word again leaves what staging its last value alone leaves (R122). -/
theorem exec_seedw_of_exec_seedw {i : Index} {v : Word} {s t : State} (h : exec (.seedw i v) s = .next t) (w : Word) :
    exec (.seedw i w) t = exec (.seedw i w) s := by
  cases h
  refine congrArg Host.Outcome.next (State.SameButResponse.respond_eq ?_ .ok 0)
  exact ⟨rfl, rfl, rfl, (bankWrite_bankWrite_same s.Stage i v w).symm, (maskWith_maskWith_same s.mask i).symm, rfl, rfl⟩

theorem State.heldStage_eq_some_iff {s : State} {i : Index} {v : Word} :
    s.heldStage i = some v ↔ s.maskBit i = true ∧ s.readStage i = v := by
  simp [State.heldStage]

theorem State.Stages.heldStage_same {i : Index} {v : Word} {s t : State} (h : s.Stages i v t) :
    t.heldStage i = some v :=
  State.heldStage_eq_some_iff.2 ⟨h.bit, h.word⟩

theorem State.Stages.heldStage_other {i j : Index} {v : Word} {s t : State} (h : s.Stages i v t) (hj : j ≠ i) :
    t.heldStage j = s.heldStage j := by
  rw [State.heldStage, (h.other j hj).1, (h.other j hj).2, State.heldStage]

/-! ### Staging and committing a seed -/

/-- SEEDW of `w`'s words at `order`: once every word of `w` is staged or still to come, all of them are staged at the
end, by induction over `order`. -/
theorem runCommands_map_seedw (w : Bank) (order : List Index) : ∀ {s : State},
    (∀ i : Index, s.heldStage i = some (bankRead w i) ∨ i ∈ order) →
    ∃ t, runCommands (order.map fun i => encode (.seedw i (bankRead w i))) s =
        .next (t, List.replicate order.length ⟨0b00, 0⟩) ∧ ∀ i : Index, t.heldStage i = some (bankRead w i) := by
  induction order with
  | nil => exact fun {s} h => ⟨s, rfl, fun i => (h i).resolve_right List.not_mem_nil⟩
  | cons k order ih =>
    intro s h
    obtain ⟨t, ht, hstage⟩ := exec_seedw_stages k (bankRead w k) s
    have hleft : ∀ i : Index, t.takeResponse.heldStage i = some (bankRead w i) ∨ i ∈ order := fun i => by
      by_cases hi : i = k
      · exact .inl (hi ▸ hstage.heldStage_same)
      · exact (h i).imp (hstage.heldStage_other hi).trans (List.mem_of_ne_of_mem hi)
    obtain ⟨u, hu, hall⟩ := ih hleft
    have hrun := runCommands_cons ((perform_of_decode_ok (decode_seedwCode k _) s).trans ht) hu
    rw [hstage.responded.st, hstage.responded.dat] at hrun
    exact ⟨u, hrun, hall⟩

/-- The state words are those of `w`, with the position at the start and no word staged (R123). -/
structure State.Loaded (w : Bank) (t : State) : Prop where
  S : t.S = w
  pos : t.pos = 0
  seeded : t.seeded = true
  mask : t.mask = 0

/-- COMMIT loads a seed whose 16 words are all staged. -/
theorem exec_commit_loaded {w : Bank} {s : State} (h : ∀ i : Index, s.heldStage i = some (bankRead w i)) :
    ∃ t, exec .commit s = .next t ∧ t.Responded 0b00 0 ∧ t.Loaded w := by
  have hfull : s.maskFull = true := s.maskFull_iff.2 fun i => (State.heldStage_eq_some_iff.1 (h i)).1
  have hstage : s.Stage = w := bank_ext fun i => (State.heldStage_eq_some_iff.1 (h i)).2
  exact ⟨_, execCommit_full hfull, ⟨rfl, rfl, rfl⟩, hstage, rfl, rfl, rfl⟩

/-- A seed staged at all indices, in any order and with repeats, and committed is the state (R125). -/
theorem runCommands_seed (w : Bank) {order : List Index} (horder : ∀ i : Index, i ∈ order) (s : State) :
    ∃ t, runCommands (order.map (fun i => encode (.seedw i (bankRead w i))) ++ [encode .commit]) s =
        .next (t, List.replicate (order.length + 1) ⟨0b00, 0⟩) ∧ t.Loaded w := by
  obtain ⟨t, ht, hheld⟩ := runCommands_map_seedw w order (s := s) fun i => .inr (horder i)
  obtain ⟨u, hu, hresp, hload⟩ := exec_commit_loaded hheld
  have hcommit := runCommands_cons ((perform_of_decode_ok (decode_commitCode 0) t).trans hu) (runCommands_nil _)
  rw [hresp.st, hresp.dat] at hcommit
  refine ⟨u.takeResponse, ?_, hload.S, hload.pos, hload.seeded, hload.mask⟩
  rw [List.replicate_succ']
  exact runCommands_append ht hcommit

theorem getElem?_allIndices_toNat (i : Index) : allIndices[i.toNat]? = some i := by
  rw [getElem?_allIndices i.isLt, BitVec.ofNat_toNat, BitVec.setWidth_eq]

theorem mem_allIndices (i : Index) : i ∈ allIndices :=
  List.mem_of_getElem? (getElem?_allIndices_toNat i)

theorem runCommands_setSeedCommands (w : Bank) (s : State) :
    ∃ t, runCommands (setSeedCommands w) s = .next (t, List.replicate 17 ⟨0b00, 0⟩) ∧ t.Loaded w :=
  runCommands_seed w mem_allIndices s

/-! ### Reading the state -/

/-- GETW at each of `is` answers its word and leaves the state as it was. -/
theorem runCommands_map_getw (is : List Index) : ∀ {s : State}, s.seeded = true →
    ∃ t, runCommands (is.map fun i => encode (.getw i)) s =
        .next (t, is.map fun i => ⟨0b00, s.readS i⟩) ∧ s.SameButResponse t := by
  induction is with
  | nil => exact fun {s} _ => ⟨s, rfl, .refl s⟩
  | cons k is ih =>
    intro s hs
    have hget := (perform_of_decode_ok (decode_getwCode k 0) s).trans (execGetw_seeded hs k)
    obtain ⟨t, ht, hsame⟩ := ih (s := (s.respond .ok (s.readS k)).takeResponse) hs
    have hkeep := (s.respond_sameButResponse .ok (s.readS k)).trans (State.takeResponse_sameButResponse _)
    exact ⟨t, runCommands_cons hget ht, hkeep.trans hsame⟩

theorem runCommands_getStateCommands {s : State} (hs : s.seeded = true) :
    ∃ t, runCommands getStateCommands s =
        .next (t, allIndices.map (fun i => ⟨0b00, s.readS i⟩) ++ [⟨0b00, s.statusWord⟩]) ∧ s.SameButResponse t := by
  obtain ⟨t, ht, hsame⟩ := runCommands_map_getw allIndices hs
  have hstatus : perform (encode .status) t = .next (s.respond .ok s.statusWord) :=
    (perform_eq_of_sameButResponse hsame (encode .status)).symm.trans (perform_of_decode_ok (decode_statusCode 0) s)
  exact ⟨_, runCommands_append ht (runCommands_cons hstatus (runCommands_nil _)),
    (s.respond_sameButResponse .ok s.statusWord).trans (State.takeResponse_sameButResponse _)⟩

/-! ### Resumption -/

theorem runCommands_draw {s : State} (hs : s.seeded = true) :
    ∃ t, runCommands [⟨0x10, 0⟩] s =
      .next (t, [⟨0b00, scramble (mix (s.readS s.pos) (s.readS (s.pos + 1)))⟩]) := by
  obtain ⟨t, ht, hdraw⟩ := perform_next_draws hs 0
  have hrun := runCommands_cons ht (runCommands_nil _)
  rw [hdraw.responded.st, hdraw.responded.dat, hdraw.word] at hrun
  exact ⟨_, hrun⟩

/-- A block loaded with the words of `s` rotated by its position is `s` rotated (R110, R127). -/
theorem State.Loaded.rotated {s t : State} (h : t.Loaded (rotate s.pos s.S)) (hs : s.seeded = true) :
    State.Rotated s.pos s t where
  words i := by rw [State.readS, h.S, bankRead_rotate, State.readS]
  pos := by rw [h.pos, zero_add]
  seeded := ⟨hs, h.seeded⟩

theorem rotate_zero (b : Bank) : rotate 0 b = b :=
  bank_ext fun i => by rw [bankRead_rotate, add_zero]

/-- A seeded block at position 1 whose only nonzero word is word 2. Its next draw mixes words 1 and 2; after a SETSEED
of its words, which loses the position, words 0 and 1. -/
def State.offStart : State :=
  { State.reset with S := bankWrite (Vector.replicate 16 0) 2 1, pos := 1, seeded := true }

end Sys2Proof.Machine

namespace Sys2Proof.Proofs

open Sys2Proof.Machine

/-- Settles O38: NOP is a response and nothing else. -/
theorem nopOnlyResponds : Obligations.NopOnlyResponds :=
  ⟨decode_nopCode, fun s => ⟨_, rfl, ⟨rfl, rfl, rfl⟩, s.respond_sameButResponse .ok 0⟩⟩

/-- Settles O39: both answers of GETW; after a draw, the word at the new position is the mix it wrote. -/
theorem getwReadsTheRawWord : Obligations.GetwReadsTheRawWord := by
  refine ⟨fun i d => ?_,
    fun i s hs => ⟨_, execGetw_seeded hs i, ⟨rfl, rfl, rfl⟩, s.respond_sameButResponse .ok (s.readS i)⟩,
    fun i s hs => ⟨_, execGetw_unseeded hs i, ⟨rfl, rfl, rfl⟩, s.raise_sameButResponse .errUnseeded⟩,
    fun s hs => ?_⟩
  · have hdecode := decode_getwCode i d
    rwa [mkCode_eq_or] at hdecode
  · obtain ⟨t, ht, hdraw⟩ := exec_next_draws hs
    refine ⟨t, _, ht, execGetw_seeded (hdraw.seeded.trans hs) t.pos, rfl, rfl, ?_⟩
    rw [State.respond_rspDat, hdraw.pos, hdraw.word]

/-- Settles O40: SEEDW stages its word, and staging the word again forgets the first value. -/
theorem seedwStagesOneWord : Obligations.SeedwStagesOneWord := by
  refine ⟨fun i d => ?_, fun i v s => ?_, fun i v w s => ?_⟩
  · rw [← encode_seedw_eq]
    exact decode_seedwCode i d
  · obtain ⟨t, ht, h⟩ := exec_seedw_stages i v s
    exact ⟨t, ht, h.responded, h.word, h.bit, h.other, h.S, h.pos, h.seeded, h.freeCount, h.edges⟩
  · obtain ⟨t, ht, _⟩ := exec_seedw_stages i v s
    obtain ⟨u, hu, _⟩ := exec_seedw_stages i w s
    exact ⟨t, u, ht, (exec_seedw_of_exec_seedw ht w).trans hu, hu⟩

/-- Settles O41: a full mask loads the staging buffer, and a clear bit is a mask that is not full. -/
theorem commitLoadsTheStagedSeed : Obligations.CommitLoadsTheStagedSeed := by
  refine ⟨decode_commitCode, fun s hmask => ?_, fun s ⟨i, hi⟩ => ?_⟩
  · exact ⟨_, execCommit_full (s.maskFull_iff_mask_eq.2 hmask), ⟨rfl, rfl, rfl⟩, fun _ => rfl, rfl, rfl, rfl, rfl,
      rfl, rfl⟩
  · have hnot : s.maskFull = false :=
      Bool.eq_false_iff.2 fun hfull => Bool.false_ne_true (hi.symm.trans (s.maskFull_iff.1 hfull i))
    exact ⟨_, execCommit_incomplete hnot, ⟨rfl, rfl, rfl⟩, s.raise_sameButResponse .errSeedIncomplete⟩

/-- Settles O43: the expansion of SETSEED, and its run as one that stages every index. -/
theorem setSeedLoadsTheSeed : Obligations.SetSeedLoadsTheSeed := by
  intro w s
  obtain ⟨t, ht, hload⟩ := runCommands_setSeedCommands w s
  obtain ⟨hlen, hlast, hget⟩ := setSeedCommands_expandsTo w
  refine ⟨t, hlen, fun k hk => ?_, hlast, ht, hload.S, hload.pos, hload.seeded⟩
  have hcode : (encode (.seedw (BitVec.ofNat 4 k) (bankRead w (BitVec.ofNat 4 k)))).code = BitVec.ofNat 8 (0x30 + k) :=
    BitVec.eq_of_toNat_eq (by rw [toNat_code_seedw, toNat_ofNat_index hk, BitVec.toNat_ofNat]; omega)
  rw [hget k hk, ← hcode]
  rfl

/-- Settles O44: the responses of GETSTATE are the 16 words and the status word, whose low 4 bits are the position. -/
theorem getStateReturnsWordsAndPosition : Obligations.GetStateReturnsWordsAndPosition := by
  intro s hs
  obtain ⟨t, ht, hsame⟩ := runCommands_getStateCommands hs
  refine ⟨t, _, ht, by simp [length_allIndices], fun i => ?_, ⟨⟨0b00, s.statusWord⟩, ?_, rfl, s.setWidth_statusWord⟩,
    hsame⟩
  · rw [List.getElem?_append_left (by simpa [length_allIndices] using i.isLt), List.getElem?_map,
      getElem?_allIndices_toNat]
    rfl
  · simp [length_allIndices]

/-- Settles O45: RESTORE loads a rotation of the original, which draws alike; at position 0 the words are their own
rotation; at another position SETSEED loses it, as `State.offStart` shows. -/
theorem restoreResumesTheStream : Obligations.RestoreResumesTheStream := by
  refine ⟨fun s t n hs => ?_, fun s t n hs hpos => ?_, ?_⟩
  · obtain ⟨t', ht', hload⟩ := runCommands_setSeedCommands (rotate s.pos s.S) t
    have hrot := hload.rotated hs
    obtain ⟨s', t'', rs, hs', ht'', _⟩ := hrot.runCommands_replicate_next n
    exact ⟨t', s', t'', rs, ht', hload.pos, hrot.words, hs', ht''⟩
  · obtain ⟨t', ht', hload⟩ := runCommands_setSeedCommands s.S t
    have hrot : State.Rotated s.pos s t' := State.Loaded.rotated (by rwa [hpos, rotate_zero]) hs
    obtain ⟨s', t'', rs, hs', ht'', _⟩ := hrot.runCommands_replicate_next n
    exact ⟨t', s', t'', rs, ht', hs', ht''⟩
  · obtain ⟨t', ht', hload⟩ := runCommands_setSeedCommands State.offStart.S State.reset
    obtain ⟨s', hs'⟩ := runCommands_draw (s := State.offStart) rfl
    obtain ⟨t'', ht''⟩ := runCommands_draw hload.seeded
    rw [State.readS, State.readS, hload.S, hload.pos] at ht''
    exact ⟨State.offStart, State.reset, t', s', t'', _, _, rfl, by decide, ht', hs', ht'', by decide⟩

end Sys2Proof.Proofs
end

section
/-! PROOFS. Exceptions (60_exceptions.md): when a command raises which error, and that nothing else answers an error;
then the obligations of that family. -/

namespace Sys2Proof.Machine

/-! ### The status codes -/

theorem Status.code_injective : Function.Injective Status.code := by
  intro a b
  cases a <;> cases b <;> decide

/-! ### When a command raises an error -/

/-- When command `c` raises the error `e` in state `s` (the table of R161): a reserved code whatever the flags hold,
NEXT and GETW without a seed, COMMIT with words still to stage. `ok` is no error. -/
def ErrorCondition (c : Command) (s : State) : Status → Prop
  | .ok => False
  | .errIllegal => ¬ ∃ i, decode c = .ok i
  | .errUnseeded => s.seeded = false ∧ (decode c = .ok .next ∨ ∃ i, decode c = .ok (.getw i))
  | .errSeedIncomplete => s.mask ≠ 0xFFFF#16 ∧ decode c = .ok .commit

theorem perform_of_errorCondition {c : Command} {s : State} {e : Status} (h : ErrorCondition c s e) :
    perform c s = .next (s.raise e) := by
  cases e with
  | ok => exact h.elim
  | errIllegal =>
    cases hd : decode c with
    | ok i => exact absurd ⟨i, hd⟩ h
    | error r => exact perform_of_decode_error hd s
  | errUnseeded =>
    obtain ⟨hs, hd | ⟨k, hd⟩⟩ := h
    · exact (perform_of_decode_ok hd s).trans (exec_unseeded hs (.inl rfl))
    · exact (perform_of_decode_ok hd s).trans (exec_unseeded hs (.inr ⟨k, rfl⟩))
  | errSeedIncomplete =>
    obtain ⟨hm, hd⟩ := h
    exact (perform_of_decode_ok hd s).trans (execCommit_incomplete (s.maskFull_eq_false_iff_mask_ne.2 hm))

/-- A command answers OK, or it raises an error whose condition holds (R161, R162). -/
theorem PerformCase.ok_or_raise {c : Command} {s t : State} (h : PerformCase c s t) :
    t.rspSt = 0b00 ∨ ∃ e, ErrorCondition c s e ∧ t = s.raise e := by
  cases h with
  | illegal r hd ht => exact .inr ⟨.errIllegal, (fun ⟨_, hi⟩ => nomatch hd.symm.trans hi), ht⟩
  | unseeded hd hs ht => exact .inr ⟨.errUnseeded, ⟨hs, hd⟩, ht⟩
  | incomplete hd hm ht => exact .inr ⟨.errSeedIncomplete, ⟨s.maskFull_eq_false_iff_mask_ne.1 hm, hd⟩, ht⟩
  | _ => subst t; exact .inl rfl

/-- Only raising an error answers an error (R162). -/
theorem raise_of_rspSt_ne_ok {c : Command} {s t : State} (h : perform c s = .next t) (hst : t.rspSt ≠ 0b00) :
    ∃ e, ErrorCondition c s e ∧ t = s.raise e :=
  (performCase h).ok_or_raise.resolve_left hst

/-- A command answers an error exactly under that error's condition (R161). -/
theorem rspSt_eq_code_iff {c : Command} {s t : State} (h : perform c s = .next t) {e : Status} (he : e ≠ .ok) :
    t.rspSt = e.code ↔ ErrorCondition c s e := by
  constructor
  · intro hst
    obtain ⟨e', hcond, rfl⟩ := raise_of_rspSt_ne_ok h fun hok => he (Status.code_injective (hst.symm.trans hok))
    exact Status.code_injective hst ▸ hcond
  · intro hcond
    obtain rfl : s.raise e = t := by simpa [perform_of_errorCondition hcond] using h
    rfl

end Sys2Proof.Machine

namespace Sys2Proof.Proofs

open Sys2Proof.Machine

/-- Settles O47: each error's status is answered exactly under its condition; a reset edge reads no command. -/
theorem statusOfEveryCommand : Obligations.StatusOfEveryCommand := by
  refine ⟨fun c s => ?_, fun e c s hr => ?_⟩
  · obtain ⟨t, ht, hpending, _⟩ := perform_next c s
    refine ⟨t, ht, hpending, rspSt_eq_code_iff ht (e := .errIllegal) nofun,
      rspSt_eq_code_iff ht (e := .errUnseeded) nofun, rspSt_eq_code_iff ht (e := .errSeedIncomplete) nofun,
      fun hst => ?_⟩
    obtain ⟨_, _, rfl⟩ := raise_of_rspSt_ne_ok ht hst
    rfl
  · refine ⟨accepts_of_not_cmdReady (cmdReady_of_rst_or_pending (.inl hr)), ?_⟩
    rw [clockEdge_of_rst hr s, clockEdge_of_rst]
    exact hr

/-- Settles O48: an answered error was raised, which writes the response register alone; the block accepts once it is
empty again. -/
theorem errorsChangeOnlyTheResponse : Obligations.ErrorsChangeOnlyTheResponse := by
  intro c s t h hst
  obtain ⟨err, _, rfl⟩ := raise_of_rspSt_ne_ok h hst
  exact ⟨rfl, rfl, rfl, rfl, rfl, ⟨rfl, rfl, rfl⟩,
    fun e hr hvalid hready => (accepts_iff e _).2 ⟨hr, hvalid, rfl, hready⟩⟩

end Sys2Proof.Proofs
end

section
/-! PROOFS. Reset and hazards (70_reset_and_hazards.md): two states the host cannot tell apart stay so over every edge
and show it the same events; what a run of commands stages and answers before a seed is committed; then the obligations
of that family. -/

namespace Sys2Proof.Machine

/-! ### States that agree wherever an element holds a value -/

theorem State.heldStage_stageWord (s : State) (k i : Index) (v : Word) :
    ((s.writeStage k v).setMaskBit k).heldStage i = if i = k then some v else s.heldStage i := by
  obtain ⟨t, ht, hstages⟩ := exec_seedw_stages k v s
  cases ht
  by_cases hi : i = k
  · rw [if_pos hi, hi]
    exact hstages.heldStage_same
  · rw [if_neg hi]
    exact hstages.heldStage_other hi

namespace State.SameVisible

variable {s t : State}

theorem rspPending (h : s.SameVisible t) : s.rspPending = t.rspPending := by
  have hsome := congrArg Option.isSome h.response
  cases hs : s.rspPending <;> cases ht : t.rspPending <;> simp [State.heldResponse, hs, ht] at hsome ⊢

theorem rsp_of_pending (h : s.SameVisible t) (hp : s.rspPending = true) :
    (⟨s.rspSt, s.rspDat⟩ : Response) = ⟨t.rspSt, t.rspDat⟩ := by
  have hresp := h.response
  rw [State.heldResponse_of_pending hp, State.heldResponse_of_pending (h.rspPending ▸ hp)] at hresp
  exact Option.some.inj hresp

theorem readS_of_seeded (h : s.SameVisible t) (hs : s.seeded = true) (i : Index) : s.readS i = t.readS i := by
  simpa [State.heldWord, hs, h.seeded ▸ hs] using h.words i

/-- With the mask full every staging word holds a value, so the buffers are the same (R123). -/
theorem Stage_of_maskFull (h : s.SameVisible t) (hm : s.maskFull = true) : s.Stage = t.Stage := by
  refine bank_ext fun i => ?_
  have hbit := s.maskFull_iff.1 hm i
  have hbit' : t.maskBit i = true := by rwa [State.maskBit, ← h.mask]
  have hstage := h.stage i
  rw [State.heldStage, State.heldStage, if_pos hbit, if_pos hbit'] at hstage
  exact Option.some.inj hstage

theorem maskFull (h : s.SameVisible t) : s.maskFull = t.maskFull := by
  rw [State.maskFull, h.mask, State.maskFull]

theorem statusWord (h : s.SameVisible t) : s.statusWord = t.statusWord := by
  rw [State.statusWord, h.mask, h.seeded, h.pos, State.statusWord]

/-! ### Each operation on the state keeps the agreement -/

theorem respond (h : s.SameVisible t) (st : Status) (d : Word) : (s.respond st d).SameVisible (t.respond st d) :=
  ⟨h.pos, h.seeded, h.mask, h.words, h.stage, rfl, rfl, h.edges⟩

theorem setPos (h : s.SameVisible t) (p : Index) : (s.setPos p).SameVisible (t.setPos p) :=
  ⟨rfl, h.seeded, h.mask, h.words, h.stage, h.response, h.age, h.edges⟩

theorem writeS (h : s.SameVisible t) (k : Index) (v : Word) : (s.writeS k v).SameVisible (t.writeS k v) := by
  refine ⟨h.pos, h.seeded, h.mask, fun i => ?_, h.stage, h.response, h.age, h.edges⟩
  have hword := h.words i
  by_cases hi : i = k
  · simp [State.heldWord, hi, h.seeded]
  · simpa [State.heldWord, hi] using hword

/-- SEEDW gives a staging word its value and its mask bit together (R122). -/
theorem stageWord (h : s.SameVisible t) (k : Index) (v : Word) :
    ((s.writeStage k v).setMaskBit k).SameVisible ((t.writeStage k v).setMaskBit k) := by
  refine ⟨h.pos, h.seeded, congrArg (maskWith · k) h.mask, h.words, fun i => ?_, h.response, h.age, h.edges⟩
  rw [s.heldStage_stageWord, t.heldStage_stageWord, h.stage i]

/-- COMMIT of the same full buffer (R123). -/
theorem loadSeed (h : s.SameVisible t) (hm : s.maskFull = true) :
    ((((s.loadS s.Stage).setPos 0).setSeeded true).setMask 0).SameVisible
      ((((t.loadS t.Stage).setPos 0).setSeeded true).setMask 0) := by
  refine ⟨rfl, rfl, rfl, fun i => ?_, fun i => ?_, h.response, h.age, h.edges⟩
  · exact congrArg (fun b => some (bankRead b i)) (h.Stage_of_maskFull hm)
  · simp [State.heldStage, State.maskBit]

theorem takeResponse (h : s.SameVisible t) : s.takeResponse.SameVisible t.takeResponse :=
  ⟨h.pos, h.seeded, h.mask, h.words, h.stage, rfl, rfl, h.edges⟩

theorem passCycle (h : s.SameVisible t) : s.passCycle.SameVisible t.passCycle := by
  have ht : t.passCycle = if s.rspPending then { t with rspAge := t.rspAge + 1 } else t := by
    rw [h.rspPending, State.passCycle]
  rw [State.passCycle, ht]
  split
  · exact ⟨h.pos, h.seeded, h.mask, h.words, h.stage, h.response, congrArg (· + 1) h.age, h.edges⟩
  · exact h

end State.SameVisible

/-- Reset leaves no bank word and no response a value, so the states before it need share only the edges to come (R180). -/
theorem State.sameVisible_resetEdge {s t : State} (h : s.edges = t.edges) : s.resetEdge.SameVisible t.resetEdge where
  pos := rfl
  seeded := rfl
  mask := rfl
  words _ := rfl
  stage i := by simp [State.heldStage, State.maskBit]
  response := rfl
  age := rfl
  edges := h

/-! ### An edge that takes a response, and one at which nothing happens -/

theorem clockEdge_of_takes {e : Edge} {s : State} (ha : accepts e s = false) (h : takes e s = true) :
    clockEdge e s = .next s.takeResponse := by
  simp [clockEdge, ha, h, ((takes_iff e s).1 h).1]

theorem clockEdge_of_quiet {e : Edge} {s : State} (hr : e.rst = false) (ha : accepts e s = false)
    (hk : takes e s = false) : clockEdge e s = .next s.passCycle := by
  simp [clockEdge, hr, ha, hk]

/-! ### Commands and edges keep the agreement -/

theorem exec_sameVisible {s t : State} (h : s.SameVisible t) (i : Instr) :
    ∃ s' t', exec i s = .next s' ∧ exec i t = .next t' ∧ s'.SameVisible t' := by
  cases i with
  | nop => exact ⟨_, _, rfl, rfl, h.respond .ok 0⟩
  | next =>
    cases hs : s.seeded
    · exact ⟨_, _, execNext_unseeded hs, execNext_unseeded (h.seeded ▸ hs), h.respond .errUnseeded 0⟩
    · refine ⟨_, _, execNext_seeded hs, execNext_seeded (h.seeded ▸ hs), ?_⟩
      rw [h.pos, h.readS_of_seeded hs, h.readS_of_seeded hs]
      exact ((h.setPos _).writeS _ _).respond .ok _
  | getw k =>
    cases hs : s.seeded
    · exact ⟨_, _, execGetw_unseeded hs k, execGetw_unseeded (h.seeded ▸ hs) k, h.respond .errUnseeded 0⟩
    · refine ⟨_, _, execGetw_seeded hs k, execGetw_seeded (h.seeded ▸ hs) k, ?_⟩
      rw [h.readS_of_seeded hs]
      exact h.respond .ok _
  | seedw k v => exact ⟨_, _, rfl, rfl, (h.stageWord k v).respond .ok 0⟩
  | commit =>
    cases hm : s.maskFull
    · exact ⟨_, _, execCommit_incomplete hm, execCommit_incomplete (h.maskFull ▸ hm), h.respond .errSeedIncomplete 0⟩
    · exact ⟨_, _, execCommit_full hm, execCommit_full (h.maskFull ▸ hm), (h.loadSeed hm).respond .ok 0⟩
  | status =>
    refine ⟨_, _, rfl, rfl, ?_⟩
    rw [h.statusWord]
    exact h.respond .ok _

theorem perform_sameVisible {s t : State} (h : s.SameVisible t) (c : Command) :
    ∃ s' t', perform c s = .next s' ∧ perform c t = .next t' ∧ s'.SameVisible t' := by
  cases hd : decode c with
  | ok i =>
    rw [perform_of_decode_ok hd, perform_of_decode_ok hd]
    exact exec_sameVisible h i
  | error r => exact ⟨_, _, perform_of_decode_error hd s, perform_of_decode_error hd t, h.respond .errIllegal 0⟩

theorem State.SameVisible.accepts_eq {s t : State} (h : s.SameVisible t) (e : Edge) : accepts e s = accepts e t := by
  rw [accepts, accepts, cmdReady, cmdReady, h.rspPending]

theorem State.SameVisible.takes_eq {s t : State} (h : s.SameVisible t) (e : Edge) : takes e s = takes e t := by
  rw [takes, takes, rspValid, rspValid, h.rspPending, h.age]

/-- One edge shows the host the same event in both states, and after it they agree again. -/
theorem clockEdge_sameVisible {s t : State} (h : s.SameVisible t) (e : Edge) :
    edgeEvent e s = edgeEvent e t ∧
      ∃ s' t', clockEdge e s = .next s' ∧ clockEdge e t = .next t' ∧ s'.SameVisible t' := by
  rcases clockEdge_cases e s with ⟨hr, hs⟩ | ⟨ha, hs⟩ | ⟨ha, hk, hs⟩ | ⟨hr, ha, hk, hs⟩
  · rw [edgeEvent_of_rst hr, edgeEvent_of_rst hr]
    exact ⟨rfl, _, _, hs, clockEdge_of_rst hr t, State.sameVisible_resetEdge h.edges⟩
  · have ha' := h.accepts_eq e ▸ ha
    rw [edgeEvent_of_accepts ha, edgeEvent_of_accepts ha', clockEdge_of_accepts ha, clockEdge_of_accepts ha']
    exact ⟨rfl, perform_sameVisible h e.command⟩
  · have ha' := h.accepts_eq e ▸ ha
    have hk' := h.takes_eq e ▸ hk
    obtain ⟨_, hpending, _⟩ := (takes_iff e s).1 hk
    rw [edgeEvent_of_takes ha hk, edgeEvent_of_takes ha' hk', h.rsp_of_pending hpending]
    exact ⟨rfl, _, _, hs, clockEdge_of_takes ha' hk', h.takeResponse⟩
  · have ha' := h.accepts_eq e ▸ ha
    have hk' := h.takes_eq e ▸ hk
    rw [edgeEvent_of_quiet hr ha hk, edgeEvent_of_quiet hr ha' hk']
    exact ⟨rfl, _, _, hs, clockEdge_of_quiet hr ha' hk', h.passCycle⟩

theorem runEdges_sameVisible (es : List Edge) : ∀ {s t : State}, s.SameVisible t →
    ∃ s' t' evs, runEdges es s = .next (s', evs) ∧ runEdges es t = .next (t', evs) ∧ s'.SameVisible t' := by
  induction es with
  | nil => exact fun {s t} h => ⟨s, t, [], rfl, rfl, h⟩
  | cons e es ih =>
    intro s t h
    obtain ⟨hev, s₁, t₁, hs, ht, h₁⟩ := clockEdge_sameVisible h e
    obtain ⟨s', t', evs, hs', ht', h'⟩ := ih h₁
    exact ⟨s', t', edgeEvent e s :: evs, runEdges_cons hs hs', hev ▸ runEdges_cons ht ht', h'⟩

/-! ### Before a seed -/

theorem runCommands_next (cs : List Command) : ∀ s : State, ∃ t rs, runCommands cs s = .next (t, rs) := by
  induction cs with
  | nil => exact fun s => ⟨s, [], rfl⟩
  | cons c cs ih =>
    intro s
    obtain ⟨u, hu, _⟩ := perform_next c s
    obtain ⟨t, rs, ht⟩ := ih u.takeResponse
    exact ⟨t, _, runCommands_cons hu ht⟩

/-- Unless it is a COMMIT that succeeds, a command stages the word SEEDW names, if it is one, and clears none (R25). -/
theorem PerformCase.maskBit_iff {c : Command} {s t : State} (h : PerformCase c s t)
    (hcommit : decode c = .ok .commit → t.rspSt ≠ 0b00) (k : Index) :
    t.maskBit k = true ↔ s.maskBit k = true ∨ ∃ v, decode c = .ok (.seedw k v) := by
  cases h with
  | commit hd _ ht => subst ht; exact absurd rfl (hcommit hd)
  | seedw j v hd ht =>
    subst ht
    simp [State.maskBit, getLsbD_maskWith, hd, eq_comm (a := k)]
  | unseeded hd _ ht => subst ht; rcases hd with hd | ⟨_, hd⟩ <;> simp [State.maskBit, hd]
  | _ => subst t; simp [State.maskBit, *]

/-- A run from an unseeded state in which no COMMIT succeeds: it commits no seed, and the words staged after it are those
staged before and those its SEEDWs name. -/
theorem runCommands_unseeded {cs : List Command} : ∀ {s t : State} {rs : List Response}, s.seeded = false →
    runCommands cs s = .next (t, rs) →
    (∀ (k : Nat) (c : Command) (r : Response), cs[k]? = some c → rs[k]? = some r → decode c = .ok .commit →
      r.st ≠ 0b00) →
    t.seeded = false ∧
      ∀ k : Index, t.maskBit k = true ↔ s.maskBit k = true ∨ ∃ c ∈ cs, ∃ v, decode c = .ok (.seedw k v) := by
  induction cs with
  | nil =>
    intro s t rs hs hrun _
    cases hrun
    exact ⟨hs, fun k => by simp⟩
  | cons c cs ih =>
    intro s t rs hs hrun hcommit
    obtain ⟨u, rs', hu, hrest, rfl⟩ := runCommands_cons_inv hrun
    have hcommit₀ : decode c = .ok .commit → u.rspSt ≠ 0b00 := hcommit 0 c _ rfl rfl
    have hu' : u.seeded = false := by
      rcases (performCase hu).seeded_cases with hkeep | ⟨hd, _, hok⟩
      · exact hkeep.trans hs
      · exact absurd hok (hcommit₀ hd)
    obtain ⟨ht, hmask⟩ := ih (s := u.takeResponse) hu' hrest fun k d r hd hr => hcommit (k + 1) d r hd hr
    refine ⟨ht, fun k => ?_⟩
    calc t.maskBit k = true
      _ ↔ u.maskBit k = true ∨ ∃ d ∈ cs, ∃ v, decode d = .ok (.seedw k v) := hmask k
      _ ↔ (s.maskBit k = true ∨ ∃ v, decode c = .ok (.seedw k v)) ∨ ∃ d ∈ cs, ∃ v, decode d = .ok (.seedw k v) :=
        or_congr_left ((performCase hu).maskBit_iff hcommit₀ k)
      _ ↔ s.maskBit k = true ∨ ∃ d ∈ c :: cs, ∃ v, decode d = .ok (.seedw k v) := by
        rw [or_assoc, List.exists_mem_cons_iff]

/-- Which commands succeed without a seed (R183). -/
theorem exec_ok_iff_of_unseeded {s t : State} (hs : s.seeded = false) {i : Instr} (h : exec i s = .next t) :
    t.rspSt = 0b00 ↔
      i = .nop ∨ (∃ k v, i = .seedw k v) ∨ i = .status ∨ (i = .commit ∧ s.maskFull = true) := by
  cases i with
  | nop => cases h; exact iff_of_true rfl (.inl rfl)
  | next => cases (execNext_unseeded hs).symm.trans h; simp [Status.code]
  | getw k => cases (execGetw_unseeded hs k).symm.trans h; simp [Status.code]
  | seedw k v => cases h; exact iff_of_true rfl (.inr (.inl ⟨k, v, rfl⟩))
  | commit =>
    cases hm : s.maskFull
    · cases (execCommit_incomplete hm).symm.trans h; simp [Status.code]
    · cases (execCommit_full hm).symm.trans h; simp [Status.code]
  | status => cases h; exact iff_of_true rfl (.inr (.inr (.inl rfl)))

end Sys2Proof.Machine

namespace Sys2Proof.Proofs

open Sys2Proof.Machine

/-- Settles O50: the reset edge frees the response register and leaves the banks, and the two runs after it start from
states the host cannot tell apart. -/
theorem resetDropsTheResponseAndKeepsTheBanks : Obligations.ResetDropsTheResponseAndKeepsTheBanks := by
  refine ⟨fun e s hr => ⟨accepts_of_not_cmdReady (cmdReady_of_rst_or_pending (.inl hr)), ?_,
    _, clockEdge_of_rst hr s, rfl, rfl, rfl⟩, fun e es s b b' hr => ?_⟩
  · simp [takes, hr]
  · obtain ⟨t, u, evs, ht, hu, _⟩ := runEdges_sameVisible es
      (State.sameVisible_resetEdge (s := s) (t := { s with S := b, Stage := b' }) rfl)
    refine ⟨t, u, .reset :: evs, ?_, ?_⟩
    · exact edgeEvent_of_rst hr s ▸ runEdges_cons (clockEdge_of_rst hr s) ht
    · exact edgeEvent_of_rst hr { s with S := b, Stage := b' } ▸ runEdges_cons (clockEdge_of_rst hr _) hu

/-- Settles O51: the run stages exactly what its SEEDWs name and leaves `seeded` 0, which decides the six commands. -/
theorem beforeASeedOnlyTheseCommandsSucceed : Obligations.BeforeASeedOnlyTheseCommandsSucceed := by
  intro e cs s hr
  obtain ⟨t, rs, hrun⟩ := runCommands_next cs s.resetEdge
  refine ⟨_, t, rs, clockEdge_of_rst hr s, hrun, fun hcommit i => ?_⟩
  obtain ⟨hseeded, hmask⟩ := runCommands_unseeded rfl hrun hcommit
  have hstaged (k : Index) : t.maskBit k = true ↔ ∃ c ∈ cs, ∃ v, decode c = .ok (.seedw k v) :=
    (hmask k).trans (or_iff_right (by simp [State.maskBit]))
  have hfull : t.maskFull = true ↔ ∀ k : Index, ∃ c ∈ cs, ∃ v, decode c = .ok (.seedw k v) :=
    t.maskFull_iff.trans (forall_congr' hstaged)
  obtain ⟨u, hu, _⟩ := exec_next i t
  refine ⟨u, hu, ?_, fun hi => ?_, ?_⟩
  · rw [exec_ok_iff_of_unseeded hseeded hu, hfull]
  · cases (exec_unseeded hseeded hi).symm.trans hu
    rfl
  · rintro rfl ⟨k, hk⟩
    have hmissing : t.maskFull = false := Bool.eq_false_iff.2 fun h =>
      have ⟨c, hc, v, hd⟩ := hfull.1 h k
      hk c hc v hd
    cases (execCommit_incomplete hmissing).symm.trans hu
    rfl

end Sys2Proof.Proofs
end

section
/-! PROOFS. The family across the spec's files: what an edge changes of the state words and the position, the invariant,
the two sides of the encoding, response timing, commands that read or draw, and runs; each part's lemmas stand under its
own heading, and the obligations of the family at the end. -/

namespace Sys2Proof

/-! ### The bits of a command, and its encoding -/

/-- A command is the one of its own 72 bits, as the opcode table numbers them (assumption 9). -/
theorem commandOfBits_of_command (c : Command) : commandOfBits 72 (c.code.toNat + 256 * c.data.toNat) = c := by
  obtain ⟨code, data⟩ := c
  have hcode := code.isLt
  have hdata := data.isLt
  have hbits : (code.toNat + 256 * data.toNat) % (1 <<< 72) = code.toNat + 256 * data.toNat :=
    Nat.mod_eq_of_lt (by omega)
  have hlow : BitVec.ofNat 8 (code.toNat + 256 * data.toNat) = code :=
    BitVec.eq_of_toNat_eq (by rw [BitVec.toNat_ofNat]; omega)
  have hhigh : BitVec.ofNat 64 ((code.toNat + 256 * data.toNat) >>> 8) = data :=
    BitVec.eq_of_toNat_eq (by rw [BitVec.toNat_ofNat, Nat.shiftRight_eq_div_pow]; omega)
  simp only [commandOfBits, hbits, hlow, hhigh]

/-- The decoder inverts the encoder (R68, R73). -/
theorem decode_encode (i : Instr) : decode (encode i) = .ok i :=
  decode_eq_ok_iff.2 ⟨rfl, fun _ _ hi => hi ▸ rfl⟩

theorem decodeTableWord_encode (i : Instr) :
    decodeTableWord 72 ((encode i).code.toNat + 256 * (encode i).data.toNat) = some i := by
  rw [decodeTableWord, commandOfBits_of_command, decode_encode]

/-- The encoder drives the data word of SEEDW's row alone (R69, assumption 15). -/
theorem encode_data_of_decode_ok {c : Command} {i : Instr} (h : decode c = .ok i) :
    (encode i).data = if c.code.toNat / 16 = 3 then c.data else 0 := by
  obtain ⟨hcode, hdata⟩ := decode_eq_ok_iff.1 h
  rw [hcode]
  cases i with
  | getw k => rw [toNat_code_getw, if_neg (by omega)]; rfl
  | seedw k v => rw [toNat_code_seedw, if_pos (by omega), hdata k v rfl]; rfl
  | _ => rfl

/-- In SEEDW's row the data word is the operand (R69). -/
theorem decode_of_opField_eq_three {code : BitVec 8} (h : opField code = 0x3) (d : Word) :
    decode ⟨code, d⟩ = .ok (.seedw (idxField code) d) := by
  simp [decode, h]

end Sys2Proof

namespace Sys2Proof.Machine

/-! ### What an accepted command does to the bit engine -/

/-- Everything a command can do to the state words and the position: nothing, one draw, or the load of the staged
seed (R20, R22). -/
theorem PerformCase.engine_cases {c : Command} {s t : State} (h : PerformCase c s t) :
    s.SameReads t ∨ (decode c = .ok .next ∧ s.seeded = true ∧ s.Draws t) ∨
      (decode c = .ok .commit ∧ s.mask = 0xFFFF#16 ∧ t.Loaded s.Stage) := by
  cases h with
  | next hd hs ht => exact .inr (.inl ⟨hd, hs, draws_of_exec_next hs (ht ▸ execNext_seeded hs)⟩)
  | commit hd hm ht => subst ht; exact .inr (.inr ⟨hd, s.maskFull_iff_mask_eq.1 hm, rfl, rfl, rfl, rfl⟩)
  | _ => subst t; exact .inl ⟨rfl, rfl, rfl⟩

/-! ### The invariant -/

theorem State.Inv.setEdges {s : State} (h : s.Inv) (es : List Edge) : (s.setEdges es).Inv :=
  ⟨h.unseeded_pos, h.error_data, h.pending_age⟩

theorem PerformCase.unseeded_pos {c : Command} {s t : State} (h : PerformCase c s t)
    (hs : s.seeded = false → s.pos = 0) (ht : t.seeded = false) : t.pos = 0 := by
  rcases h.engine_cases with hsame | ⟨_, hseeded, hdraw⟩ | ⟨_, _, hload⟩
  · exact hsame.pos.trans (hs (hsame.seeded.symm.trans ht))
  · exact absurd (hseeded.symm.trans (hdraw.seeded.symm.trans ht)) nofun
  · exact hload.pos

/-- An accepted command's response is pending, in its first cycle (R64). -/
theorem pending_of_perform {c : Command} {s t : State} (h : perform c s = .next t) :
    t.rspPending = true ∧ t.rspAge = 1 := by
  obtain ⟨t', ht', hpending, hage, _⟩ := perform_next c s
  cases ht'.symm.trans h
  exact ⟨hpending, hage⟩

theorem perform_keeps_inv {c : Command} {s t : State} (h : s.Inv) (hp : perform c s = .next t) : t.Inv := by
  obtain ⟨hpending, hage⟩ := pending_of_perform hp
  refine ⟨(performCase hp).unseeded_pos h.unseeded_pos, fun _ hst => ?_, iff_of_true hpending hage.ge⟩
  obtain ⟨_, _, rfl⟩ := raise_of_rspSt_ne_ok hp hst
  rfl

theorem State.Inv.resetEdge (s : State) : s.resetEdge.Inv :=
  ⟨fun _ => rfl, nofun, iff_of_false nofun nofun⟩

theorem State.Inv.takeResponse {s : State} (h : s.Inv) : s.takeResponse.Inv :=
  ⟨h.unseeded_pos, nofun, iff_of_false nofun nofun⟩

theorem State.Inv.passCycle {s : State} (h : s.Inv) : s.passCycle.Inv := by
  refine ⟨by simpa using h.unseeded_pos, by simpa using h.error_data, ?_⟩
  cases hp : s.rspPending
  · simpa [hp] using h.pending_age
  · simp [hp]

theorem clockEdge_keeps_inv {e : Edge} {s t : State} (h : s.Inv) (ht : clockEdge e s = .next t) : t.Inv := by
  obtain ⟨t', ht', hcases⟩ := edge_cases e s
  obtain rfl : t' = t := by simpa [ht'] using ht
  rcases hcases with ⟨_, rfl⟩ | ⟨_, hp⟩ | ⟨_, _, rfl⟩ | ⟨_, _, _, rfl⟩
  · exact .resetEdge s
  · exact perform_keeps_inv h hp
  · exact h.takeResponse
  · exact h.passCycle

/-! ### What the port shows of states that agree wherever an element holds a value -/

/-- The port shows the held response or nothing (R64). -/
theorem rspPort_eq_heldResponse (e : Edge) (s : State) :
    rspPort e s = if rspValid e s then s.heldResponse else none := by
  unfold rspPort
  split
  · next h => rw [State.heldResponse_of_pending ((rspValid_iff e s).1 h).2.1]
  · rfl

theorem State.SameVisible.outputs_eq {s t : State} (h : s.SameVisible t) (e : Edge) : outputs e s = outputs e t := by
  have hready : cmdReady e s = cmdReady e t := by rw [cmdReady, cmdReady, h.rspPending]
  have hvalid : rspValid e s = rspValid e t := by rw [rspValid, rspValid, h.rspPending, h.age]
  rw [outputs, outputs, rspPort_eq_heldResponse, rspPort_eq_heldResponse, hready, hvalid, h.response]

theorem State.SameVisible.setEdges {s t : State} (h : s.SameVisible t) (es : List Edge) :
    (s.setEdges es).SameVisible (t.setEdges es) :=
  ⟨h.pos, h.seeded, h.mask, h.words, h.stage, h.response, h.age, rfl⟩

theorem step_sameVisible {s t : State} (h : s.SameVisible t) :
    ∃ s' t', step s = .next s' ∧ step t = .next t' ∧ s'.SameVisible t' := by
  have hnext : s.nextEdge = t.nextEdge := by rw [State.nextEdge, State.nextEdge, h.edges]
  rw [step, step, stepEdge, stepEdge, ← hnext]
  exact (clockEdge_sameVisible (h.setEdges _) _).2

/-! ### Commands that change nothing when repeated -/

/-- GETW and STATUS move the response register alone, whether they answer or are refused (R45). -/
theorem exec_read_sameButResponse {i : Instr} (hi : i = .status ∨ ∃ k, i = .getw k) {s t : State}
    (h : exec i s = .next t) : s.SameButResponse t := by
  rcases hi with rfl | ⟨k, rfl⟩
  · cases h
    exact s.respond_sameButResponse .ok s.statusWord
  · cases hs : s.seeded
    · cases (execGetw_unseeded hs k).symm.trans h
      exact s.raise_sameButResponse .errUnseeded
    · cases (execGetw_seeded hs k).symm.trans h
      exact s.respond_sameButResponse .ok (s.readS k)

/-- Only SEEDW sets a mask bit (R25). -/
theorem PerformCase.mask_eq_zero {c : Command} {s t : State} (h : PerformCase c s t)
    (hc : ∀ k v, decode c ≠ .ok (.seedw k v)) (hs : s.mask = 0) : t.mask = 0 := by
  rcases h.mask_cases with hkeep | ⟨_, hzero⟩ | ⟨k, v, hd, _⟩
  · exact hkeep.trans hs
  · exact hzero
  · exact absurd hd (hc k v)

theorem runCommands_mask_eq_zero {cs : List Command} {s t : State} {rs : List Response}
    (hcs : ∀ c ∈ cs, ∀ k v, decode c ≠ .ok (.seedw k v)) (hs : s.mask = 0)
    (hrun : runCommands cs s = .next (t, rs)) : t.mask = 0 :=
  (runCommands_keeps (P := fun u => u.mask = 0) (A := fun c _ => ∀ k v, decode c ≠ .ok (.seedw k v))
    (Q := fun _ _ => True) (fun hu hp hc => ⟨(performCase hp).mask_eq_zero hc hu, trivial⟩) hs hrun
    fun _ c _ hc _ => hcs c (List.mem_of_getElem? hc)).1

/-- A COMMIT that answers OK has used the mask up (R123). -/
theorem mask_eq_zero_of_exec_commit_ok {s t : State} (h : exec .commit s = .next t) (hok : t.rspSt = 0b00) :
    t.mask = 0 := by
  cases hm : s.maskFull
  · cases (execCommit_incomplete hm).symm.trans h
    exact absurd hok (show Status.errSeedIncomplete.code ≠ 0b00 by decide)
  · cases (execCommit_full hm).symm.trans h
    rfl

/-! ### Draws of two blocks with equal words and position -/

/-- Two seeded blocks with the same words and position and, if `staged`, the same seed staged. What their other elements
hold is free (R106). -/
structure State.SameEngine (staged : Prop) (s t : State) : Prop where
  seeded : s.seeded = true ∧ t.seeded = true
  S : s.S = t.S
  pos : s.pos = t.pos
  staging : staged → s.Stage = t.Stage ∧ s.mask = t.mask

section SameEngine

variable {staged : Prop} {s t : State}

theorem State.SameEngine.respond (h : s.SameEngine staged t) (st st' : Status) (d d' : Word) :
    (s.respond st d).SameEngine staged (t.respond st' d') :=
  ⟨h.seeded, h.S, h.pos, h.staging⟩

theorem State.SameEngine.takeResponse (h : s.SameEngine staged t) :
    s.takeResponse.SameEngine staged t.takeResponse :=
  ⟨h.seeded, h.S, h.pos, h.staging⟩

theorem State.SameEngine.readS (h : s.SameEngine staged t) (i : Index) : s.readS i = t.readS i := by
  rw [State.readS, h.S, State.readS]

/-- One draw of each block: the answers are the same, and the blocks stay such. -/
theorem State.SameEngine.draws (h : s.SameEngine staged t) {s' t' : State} (hs : s.Draws s') (ht : t.Draws t') :
    s'.SameEngine staged t' ∧ s'.rspDat = t'.rspDat := by
  have hword : s'.readS (s.pos + 1) = t'.readS (s.pos + 1) := by
    rw [hs.word, h.pos, ht.word, h.readS, h.readS]
  obtain ⟨hseeded, hseeded'⟩ := h.seeded
  refine ⟨⟨⟨hs.seeded.trans hseeded, ht.seeded.trans hseeded'⟩, bank_ext fun j => ?_, ?_, fun hstaged => ?_⟩, ?_⟩
  · by_cases hj : j = s.pos + 1
    · rw [hj]; exact hword
    · exact (hs.other j hj).trans ((h.readS j).trans (ht.other j (h.pos ▸ hj)).symm)
  · rw [hs.pos, ht.pos, h.pos]
  · rw [hs.Stage, ht.Stage, hs.mask, ht.mask]; exact h.staging hstaged
  · rw [hs.responded.dat, ht.responded.dat, hword, h.pos]

theorem exec_sameEngine (h : s.SameEngine staged t) {i : Instr} (hi : staged ∨ i ≠ .commit) :
    ∃ s' t', exec i s = .next s' ∧ exec i t = .next t' ∧ s'.SameEngine staged t' := by
  obtain ⟨hs, ht⟩ := h.seeded
  cases i with
  | nop => exact ⟨_, _, rfl, rfl, h.respond ..⟩
  | next =>
    obtain ⟨s', hs', hdraw⟩ := exec_next_draws hs
    obtain ⟨t', ht', hdraw'⟩ := exec_next_draws ht
    exact ⟨s', t', hs', ht', (h.draws hdraw hdraw').1⟩
  | getw k => exact ⟨_, _, execGetw_seeded hs k, execGetw_seeded ht k, h.respond ..⟩
  | seedw k v =>
    refine ⟨_, _, rfl, rfl, h.seeded, h.S, h.pos, fun hstaged => ?_⟩
    obtain ⟨hStage, hmask⟩ := h.staging hstaged
    exact ⟨congrArg (bankWrite · k v) hStage, congrArg (maskWith · k) hmask⟩
  | commit =>
    obtain ⟨hStage, hmask⟩ := h.staging (hi.resolve_right fun hne => hne rfl)
    have hfull : s.maskFull = t.maskFull := by rw [State.maskFull, hmask, State.maskFull]
    cases hm : s.maskFull
    · exact ⟨_, _, execCommit_incomplete hm, execCommit_incomplete (hfull ▸ hm), h.respond ..⟩
    · exact ⟨_, _, execCommit_full hm, execCommit_full (hfull ▸ hm), ⟨rfl, rfl⟩, hStage, rfl,
        fun _ => ⟨hStage, rfl⟩⟩
  | status => exact ⟨_, _, rfl, rfl, h.respond ..⟩

theorem perform_sameEngine (h : s.SameEngine staged t) {c : Command} (hc : staged ∨ decode c ≠ .ok .commit) :
    ∃ s' t', perform c s = .next s' ∧ perform c t = .next t' ∧ s'.SameEngine staged t' := by
  cases hd : decode c with
  | ok i =>
    rw [perform_of_decode_ok hd, perform_of_decode_ok hd]
    exact exec_sameEngine h (hc.imp_right fun hne hi => hne (hi ▸ hd))
  | error r => exact ⟨_, _, perform_of_decode_error hd s, perform_of_decode_error hd t, h.respond ..⟩

/-- NEXT answers OK and the same word in both blocks. -/
theorem perform_next_sameEngine (h : s.SameEngine staged t) {c : Command} (hd : decode c = .ok .next) {s' t' : State}
    (hs : perform c s = .next s') (ht : perform c t = .next t') :
    s'.rspSt = 0b00 ∧ (⟨t'.rspSt, t'.rspDat⟩ : Response) = ⟨s'.rspSt, s'.rspDat⟩ := by
  have hdraw := draws_of_exec_next h.seeded.1 ((perform_of_decode_ok hd s).symm.trans hs)
  have hdraw' := draws_of_exec_next h.seeded.2 ((perform_of_decode_ok hd t).symm.trans ht)
  exact ⟨hdraw.responded.st, by rw [hdraw'.responded.st, hdraw.responded.st, (h.draws hdraw hdraw').2]⟩

end SameEngine

/-- Both lists answer OK and the same word to every NEXT among the commands. -/
def SameDraws (cs : List Command) (rs rs' : List Response) : Prop :=
  ∀ (k : Nat) (c : Command), cs[k]? = some c → decode c = .ok .next →
    ∃ r, rs[k]? = some r ∧ rs'[k]? = some r ∧ r.st = 0b00

theorem SameDraws.cons {c : Command} {r r' : Response} {cs : List Command} {rs rs' : List Response}
    (h : decode c = .ok .next → r.st = 0b00 ∧ r' = r) (hrest : SameDraws cs rs rs') :
    SameDraws (c :: cs) (r :: rs) (r' :: rs')
  | 0, _, hc, hd => by
    obtain ⟨hst, rfl⟩ := h (Option.some.inj hc ▸ hd)
    exact ⟨r', rfl, rfl, hst⟩
  | k + 1, d, hc, hd => hrest k d hc hd

/-- R106 over a run, by induction over its commands. -/
theorem runCommands_sameEngine {staged : Prop} (cs : List Command) : ∀ {s t : State}, s.SameEngine staged t →
    (∀ c ∈ cs, staged ∨ decode c ≠ .ok .commit) →
    ∃ s' t' rs rs', runCommands cs s = .next (s', rs) ∧ runCommands cs t = .next (t', rs') ∧
      s'.SameEngine staged t' ∧ SameDraws cs rs rs' := by
  induction cs with
  | nil => exact fun {s t} h _ => ⟨s, t, [], [], rfl, rfl, h, nofun⟩
  | cons c cs ih =>
    intro s t h hcs
    obtain ⟨hc, hrest⟩ := List.forall_mem_cons.1 hcs
    obtain ⟨u, v, hu, hv, huv⟩ := perform_sameEngine h hc
    obtain ⟨s', t', rs, rs', hs', ht', hst', hdraws⟩ := ih huv.takeResponse hrest
    exact ⟨s', t', _, _, runCommands_cons hu hs', runCommands_cons hv ht', hst',
      hdraws.cons fun hd => perform_next_sameEngine h hd hu hv⟩

/-! ### Edges at which a response waits or the command port is closed -/

theorem takes_eq_rspReady {e : Edge} {s : State} (h : rspValid e s = true) : takes e s = e.rspReady := by
  simp [takes, h, ((rspValid_iff e s).1 h).1]

/-- No command is accepted while a response is pending (R63). -/
theorem accepts_of_pending (e : Edge) {s : State} (h : s.rspPending = true) : accepts e s = false :=
  accepts_of_not_cmdReady (cmdReady_of_rst_or_pending (.inr h))

theorem takes_of_not_pending (e : Edge) {s : State} (h : s.rspPending = false) : takes e s = false := by
  simp [takes, rspValid, h]

/-- The same state with the pending response `n` cycles older. -/
def State.aged (s : State) (n : Nat) : State := { s with rspAge := s.rspAge + n }

theorem State.passCycle_of_pending {s : State} (h : s.rspPending = true) : s.passCycle = s.aged 1 := by
  simp [State.passCycle, h, State.aged]

theorem State.passCycle_of_not_pending {s : State} (h : s.rspPending = false) : s.passCycle = s := by
  simp [State.passCycle, h]

theorem State.aged_aged (s : State) (m n : Nat) : (s.aged m).aged n = s.aged (m + n) := by
  simp [State.aged, Nat.add_assoc]

theorem State.aged_sameButResponse (s : State) (n : Nat) : s.SameButResponse (s.aged n) :=
  ⟨rfl, rfl, rfl, rfl, rfl, rfl, rfl⟩

/-! ### Runs of edges -/

theorem runEdges_append {es es' : List Edge} {s t u : State} {evs evs' : List Event}
    (h : runEdges es s = .next (t, evs)) (h' : runEdges es' t = .next (u, evs')) :
    runEdges (es ++ es') s = .next (u, evs ++ evs') := by
  induction es generalizing s evs with
  | nil => cases h; exact h'
  | cons e es ih =>
    obtain ⟨s', hs', _⟩ := clockEdge_next e s
    simp only [runEdges, hs'] at h
    split at h
    · cases h
    · cases h
    · next hrest =>
      cases h
      exact runEdges_cons hs' (ih hrest)

/-- Before the `RSP_LATENCY`-th cycle no edge but a reset moves anything but the cycle count (R64). -/
theorem runEdges_before_latency (es : List Edge) : ∀ {s : State}, s.rspPending = true →
    s.rspAge + es.length ≤ Config.rspLatency → (∀ x ∈ es, x.rst = false) →
    runEdges es s = .next (s.aged es.length, List.replicate es.length .quiet) := by
  induction es with
  | nil => exact fun _ _ _ => rfl
  | cons e es ih =>
    intro s hpending hage hes
    obtain ⟨hr, hrest⟩ := List.forall_mem_cons.1 hes
    rw [List.length_cons] at hage
    have ha := accepts_of_pending e hpending
    have hk : takes e s = false := Bool.eq_false_iff.2 fun h => by
      obtain ⟨_, _, hreached, _⟩ := (takes_iff e s).1 h
      omega
    have hstep : clockEdge e s = .next (s.aged 1) :=
      (clockEdge_of_quiet hr ha hk).trans (congrArg _ (State.passCycle_of_pending hpending))
    have hrun := runEdges_cons hstep (ih (s := s.aged 1) hpending (by simp only [State.aged]; omega) hrest)
    rwa [edgeEvent_of_quiet hr ha hk, State.aged_aged, Nat.add_comm 1] at hrun

/-- With no response pending, edges with `cmd_ready` low change nothing (R63). -/
theorem runEdges_of_not_ready {s : State} (hs : s.rspPending = false) {es : List Edge}
    (hes : ∀ x ∈ es, x.rst = false ∧ cmdReady x s = false) :
    runEdges es s = .next (s, List.replicate es.length .quiet) := by
  induction es with
  | nil => rfl
  | cons e es ih =>
    obtain ⟨⟨hr, hready⟩, hrest⟩ := List.forall_mem_cons.1 hes
    have ha := accepts_of_not_cmdReady hready
    have hk := takes_of_not_pending e hs
    have hstep : clockEdge e s = .next s :=
      (clockEdge_of_quiet hr ha hk).trans (congrArg _ (State.passCycle_of_not_pending hs))
    have hrun := runEdges_cons hstep (ih hrest)
    rwa [edgeEvent_of_quiet hr ha hk] at hrun

/-- A response just answered is taken at the `RSP_LATENCY`-th edge with `rsp_ready` held (R64, R65). -/
theorem runEdges_until_taken {s : State} (hpending : s.rspPending = true) (hage : s.rspAge = 1) {es : List Edge}
    (hlen : es.length = Config.rspLatency) (hes : ∀ x ∈ es, x.rst = false ∧ x.rspReady = true) :
    ∃ n, runEdges es s =
      .next ((s.aged n).takeResponse, List.replicate n .quiet ++ [.taken ⟨s.rspSt, s.rspDat⟩]) := by
  obtain rfl | ⟨init, last, rfl⟩ := List.eq_nil_or_concat' es
  · exact absurd hlen (Nat.succ_ne_zero _).symm
  obtain ⟨hinit, hlast⟩ := List.forall_mem_append.1 hes
  obtain ⟨hr, hready⟩ := hlast last (List.mem_singleton_self last)
  rw [List.length_append, List.length_singleton] at hlen
  have hwait := runEdges_before_latency init hpending (by omega) fun x hx => (hinit x hx).1
  have hpending' : (s.aged init.length).rspPending = true := hpending
  have hreached : Config.rspLatency ≤ (s.aged init.length).rspAge := by simp only [State.aged]; omega
  have ha := accepts_of_pending last hpending'
  have hk := (takes_iff last _).2 ⟨hr, hpending', hreached, hready⟩
  have htake := runEdges_cons (clockEdge_of_takes ha hk) (es := []) rfl
  rw [edgeEvent_of_takes ha hk] at htake
  exact ⟨init.length, runEdges_append hwait htake⟩

theorem transactionsOf_quiet_append (n : Nat) (evs : List Event) :
    transactionsOf (List.replicate n .quiet ++ evs) = transactionsOf evs := by
  induction n with
  | zero => rfl
  | succ n ih => exact ih

theorem takenOf_quiet_append (n : Nat) (evs : List Event) :
    takenOf (List.replicate n .quiet ++ evs) = takenOf evs := by
  induction n with
  | zero => rfl
  | succ n ih => exact ih

/-- More reset edges after a reset edge leave the state after a reset edge. -/
theorem runEdges_of_rst (es : List Edge) : ∀ s : State, (∀ x ∈ es, x.rst = true) →
    ∃ (u : State) (evs : List Event), runEdges es s.resetEdge = .next (u.resetEdge, evs) := by
  induction es with
  | nil => exact fun s _ => ⟨s, [], rfl⟩
  | cons e es ih =>
    intro s hes
    obtain ⟨hr, hrest⟩ := List.forall_mem_cons.1 hes
    obtain ⟨u, evs, hrun⟩ := ih s.resetEdge hrest
    exact ⟨u, _, runEdges_cons (clockEdge_of_rst hr _) hrun⟩

/-! ### The edges to come -/

theorem exec_setEdges {i : Instr} {s t : State} (h : exec i s = .next t) (es : List Edge) :
    exec i (s.setEdges es) = .next (t.setEdges es) := by
  cases i with
  | next =>
    cases hs : s.seeded
    · cases (execNext_unseeded hs).symm.trans h; exact execNext_unseeded hs
    · cases (execNext_seeded hs).symm.trans h; exact execNext_seeded hs
  | getw k =>
    cases hs : s.seeded
    · cases (execGetw_unseeded hs k).symm.trans h; exact execGetw_unseeded (s := s.setEdges es) hs k
    · cases (execGetw_seeded hs k).symm.trans h; exact execGetw_seeded (s := s.setEdges es) hs k
  | commit =>
    cases hm : s.maskFull
    · cases (execCommit_incomplete hm).symm.trans h; exact execCommit_incomplete hm
    · cases (execCommit_full hm).symm.trans h; exact execCommit_full hm
  | _ => cases h; rfl

theorem perform_setEdges {c : Command} {s t : State} (h : perform c s = .next t) (es : List Edge) :
    perform c (s.setEdges es) = .next (t.setEdges es) := by
  cases hd : decode c with
  | ok i =>
    rw [perform_of_decode_ok hd] at h ⊢
    exact exec_setEdges h es
  | error r =>
    cases (perform_of_decode_error hd s).symm.trans h
    exact perform_of_decode_error hd _

theorem State.passCycle_setEdges (s : State) (es : List Edge) :
    (s.setEdges es).passCycle = s.passCycle.setEdges es := by
  cases hp : s.rspPending
  · rw [State.passCycle_of_not_pending hp, State.passCycle_of_not_pending (s := s.setEdges es) hp]
  · rw [State.passCycle_of_pending hp, State.passCycle_of_pending (s := s.setEdges es) hp]; rfl

/-- An edge does the same whatever edges are listed after it. -/
theorem clockEdge_setEdges {e : Edge} {s t : State} (h : clockEdge e s = .next t) (es : List Edge) :
    clockEdge e (s.setEdges es) = .next (t.setEdges es) := by
  obtain ⟨t', ht', hcases⟩ := edge_cases e s
  obtain rfl : t' = t := by simpa [ht'] using h
  rcases hcases with ⟨hr, rfl⟩ | ⟨ha, hp⟩ | ⟨ha, hk, rfl⟩ | ⟨hr, ha, hk, rfl⟩
  · exact clockEdge_of_rst hr _
  · exact (clockEdge_of_accepts (s := s.setEdges es) ha).trans (perform_setEdges hp es)
  · exact clockEdge_of_takes (s := s.setEdges es) ha hk
  · exact (clockEdge_of_quiet (s := s.setEdges es) hr ha hk).trans (congrArg _ (s.passCycle_setEdges es))

theorem run_succ_of_step {M : Host.Core} {s t : M.State} (h : M.step s = .next t) (k : Nat) :
    M.run (k + 1) s = M.run k t := by
  simp only [Host.Core.run, h]

/-- The machine's run and the clocked run, edge by edge. -/
theorem run_core_setEdges (es rest : List Edge) : ∀ s : State, ∃ t evs,
    runEdges es (s.setEdges rest) = .next (t, evs) ∧
    Host.Core.run Sys2Proof.core es.length (s.setEdges (es ++ rest)) = .next t ∧ t.edges = rest := by
  induction es with
  | nil => exact fun s => ⟨s.setEdges rest, [], rfl, rfl, rfl⟩
  | cons e es ih =>
    intro s
    obtain ⟨u, hu, _⟩ := clockEdge_next e s
    obtain ⟨t, evs, hedges, hcore, hrest⟩ := ih u
    have hstep : Sys2Proof.core.step (s.setEdges (e :: es ++ rest)) = .next (u.setEdges (es ++ rest)) :=
      (step_cons rfl).trans (clockEdge_setEdges hu (es ++ rest))
    exact ⟨t, _, runEdges_cons (clockEdge_setEdges hu rest) hedges,
      (run_succ_of_step hstep es.length).trans hcore, hrest⟩

/-- At an edge with an idle host nothing moves but the cycle count. -/
theorem clockEdge_idleEdge (s : State) : clockEdge idleEdge s = .next s.passCycle :=
  clockEdge_of_quiet rfl (by simp [accepts, idleEdge]) (by simp [takes, idleEdge])

end Sys2Proof.Machine

namespace Sys2Proof.Proofs

open Sys2Proof.Machine

/-- Settles O9: agreement wherever an element holds a value fixes the ports and the status word, and the next edge, the
same in both states, keeps it. -/
theorem unspecifiedContentsNeverReachThePort : Obligations.UnspecifiedContentsNeverReachThePort :=
  fun _ _ h => ⟨h.outputs_eq, h.statusWord, step_sameVisible h⟩

/-- Settles O27: the decoder inverts the encoder, and the code it read is the encoder's. -/
theorem decodeAndEncodeAgree : Obligations.DecodeAndEncodeAgree :=
  ⟨fun i => ⟨decode_encode i, decodeTableWord_encode i⟩,
    fun _ _ h => ⟨(decode_eq_ok_iff.1 h).1.symm, encode_data_of_decode_ok h⟩⟩

/-- Settles O52: a step is one edge, and each thing an edge can do keeps the invariant. -/
theorem everyStepKeepsTheInvariant : Obligations.EveryStepKeepsTheInvariant :=
  fun _ _ h ht => clockEdge_keeps_inv (h.setEdges _) ht

/-- Settles O54: the simulation of an edge; at a reset edge the transaction is the reset, which answers nothing. -/
theorem everyEdgeKeepsTheTransactionSimulation : Obligations.EveryEdgeKeepsTheTransactionSimulation := by
  intro e s v h
  obtain ⟨t, w, rs, ht, hw, hsame, hacc⟩ := clockEdge_simulated e h
  refine ⟨t, w, rs, ht, hw, hsame, hacc.exact_of_noReset, fun hr => ?_⟩
  rw [edgeEvent_of_rst hr] at hw ⊢
  cases hw
  cases (clockEdge_of_rst hr s).symm.trans ht
  exact ⟨rfl, rfl, rfl⟩

/-- Settles O1, by the cases of an edge and, if a command was accepted, of what it does to the bit engine. -/
theorem stateWordsChangeOnlyByNextOrCommit : Obligations.StateWordsChangeOnlyByNextOrCommit := by
  intro e s
  obtain ⟨t, ht, _⟩ := clockEdge_next e s
  refine ⟨t, ht, ?_⟩
  rcases clockEdge_inv ht with ⟨_, rfl⟩ | ⟨ha, hp⟩ | hsame
  · exact .inl rfl
  · obtain ⟨hr, hvalid, hidle, _⟩ := (accepts_iff e s).1 ha
    rcases hp.engine_cases with hkeep | ⟨hd, hs, hdraw⟩ | ⟨hd, hm, hload⟩
    · exact .inl hkeep.S
    · exact .inr (.inl ⟨hr, hd, hs, hvalid, hidle, hdraw.other⟩)
    · exact .inr (.inr ⟨hr, hd, hm, hvalid, hidle, fun j => congrArg (bankRead · j) hload.S⟩)
  · exact .inl hsame.S

/-- Settles O3, by the same cases as O1. -/
theorem positionChangesOnlyByResetCommitNext : Obligations.PositionChangesOnlyByResetCommitNext := by
  intro e s
  obtain ⟨t, ht, _⟩ := clockEdge_next e s
  refine ⟨t, ht, ?_⟩
  rcases clockEdge_inv ht with ⟨hr, rfl⟩ | ⟨ha, hp⟩ | hsame
  · exact .inr (.inl ⟨hr, rfl⟩)
  · rcases hp.engine_cases with hkeep | ⟨hd, hs, hdraw⟩ | ⟨hd, hm, hload⟩
    · exact .inl hkeep.pos
    · refine .inr (.inr (.inr ⟨ha, hd, hs, ?_, fun j hj => hdraw.other j (hdraw.pos ▸ hj)⟩))
      rw [hdraw.pos, BitVec.toNat_add]
      rfl
    · exact .inr (.inr (.inl ⟨ha, hd, hm, hload.pos⟩))
  · exact .inl hsame.pos

/-- Settles O10: a read leaves the state it answers from, staging a word again changes nothing, and after a COMMIT the
mask stays empty until a SEEDW. -/
theorem repeatedCommandsBehaveAsStated : Obligations.RepeatedCommandsBehaveAsStated := by
  refine ⟨fun i s hi => ?_, fun k v s => ?_, fun s t between ht hok hbetween => ?_⟩
  · obtain ⟨t, ht, _⟩ := exec_next i s
    have hsame := exec_read_sameButResponse hi ht
    exact ⟨t, t, ht, hsame, (exec_eq_of_sameButResponse hsame i).symm.trans ht, rfl, rfl, hsame⟩
  · obtain ⟨t, ht, _⟩ := exec_next (.seedw k v) s
    exact ⟨t, t, ht, (exec_seedw_of_exec_seedw ht v).trans ht, rfl⟩
  · obtain ⟨u, rs, hu⟩ := runCommands_next between t.takeResponse
    have hused : t.mask = 0 := mask_eq_zero_of_exec_commit_ok ht hok
    have hmask : u.mask = 0 := runCommands_mask_eq_zero (s := t.takeResponse) hbetween hused hu
    have hnot : u.maskFull = false := u.maskFull_eq_false_iff_mask_ne.2 (hmask ▸ by decide)
    exact ⟨u, rs, _, hu, execCommit_incomplete hnot, ⟨rfl, rfl, rfl⟩, u.raise_sameButResponse .errSeedIncomplete⟩

/-- Settles O16: the cycle count starts at 1 at acceptance, grows by 1 at every edge before the handshake, and decides
`rsp_valid`. -/
theorem responseIsOfferedExactlyFromTheLatencyOn : Obligations.ResponseIsOfferedExactlyFromTheLatencyOn := by
  refine ⟨Nat.succ_pos _, fun e s ha => ?_, fun x y u hvalid hready hr => ?_⟩
  · obtain ⟨t, ht, hpending, hage, _⟩ := perform_next e.command s
    refine ⟨t, (clockEdge_of_accepts ha).trans ht, ht, hpending, fun es hes hlen => ?_⟩
    refine ⟨_, _, runEdges_before_latency es hpending (by omega) hes, hpending, rfl, rfl, fun x hx => ?_⟩
    have hiff : rspValid x (t.aged es.length) = true ↔ es.length + 1 = Config.rspLatency := by
      have hcount : (t.aged es.length).rspAge = 1 + es.length := congrArg (· + es.length) hage
      rw [rspValid_iff, hcount]
      exact ⟨fun ⟨_, _, hreached⟩ => by omega, fun hreached => ⟨hx, hpending, by omega⟩⟩
    refine ⟨hiff, ?_⟩
    simp only [rspPort, hiff]
    rfl
  · obtain ⟨hrx, hpending, hreached⟩ := (rspValid_iff x u).1 hvalid
    have hquiet := clockEdge_of_quiet hrx (accepts_of_pending x hpending) ((takes_eq_rspReady hvalid).trans hready)
    rw [State.passCycle_of_pending hpending] at hquiet
    have hvalid' : rspValid y (u.aged 1) = true := (rspValid_iff y _).2 ⟨hr, hpending, Nat.le_succ_of_le hreached⟩
    exact ⟨_, hquiet, hvalid', if_pos hvalid'⟩

/-- Settles O17: with a response pending an edge takes it or lets a cycle pass. -/
theorem handshakeTakesTheResponse : Obligations.HandshakeTakesTheResponse := by
  refine ⟨fun e s _ hvalid hready => ?_, fun e s hr hpending hno => ?_⟩
  · obtain ⟨_, hpending, _⟩ := (rspValid_iff e s).1 hvalid
    have hk : takes e s = true := (takes_eq_rspReady hvalid).trans hready
    exact ⟨_, clockEdge_of_takes (accepts_of_pending e hpending) hk, rfl, rfl, rfl, s.takeResponse_sameButResponse⟩
  · have hk : takes e s = false := by rcases hno with h | h <;> simp [takes, h]
    refine ⟨_, clockEdge_of_quiet hr (accepts_of_pending e hpending) hk, ?_⟩
    rw [State.passCycle_of_pending hpending]
    exact ⟨hpending, rfl, rfl, s.aged_sameButResponse 1⟩

/-- Settles O18: the edges with `cmd_ready` low change nothing, the next one accepts the command, and the last one takes
its response. -/
theorem offeredCommandFinishes : Obligations.OfferedCommandFinishes := by
  rintro ⟨_, _⟩ s t waits rests a hs hwaits hr hvalid rfl rfl hready hlen hrests ht
  obtain ⟨hpending, hage⟩ := pending_of_perform ht
  have hwait := runEdges_of_not_ready hs hwaits
  have ha := accepts_of_cmdReady hr hvalid hready
  obtain ⟨n, htaken⟩ := runEdges_until_taken hpending hage hlen hrests
  have hrun := runEdges_append hwait (runEdges_cons ((clockEdge_of_accepts ha).trans ht) htaken)
  rw [edgeEvent_of_accepts ha] at hrun
  refine ⟨_, _, hrun, rfl, (t.aged_sameButResponse n).trans (State.takeResponse_sameButResponse _), ?_, ?_⟩
  · rw [transactionsOf_quiet_append, transactionsOf, transactionsOf_quiet_append]
    rfl
  · rw [takenOf_quiet_append, takenOf, takenOf_quiet_append]
    rfl

/-- Settles O20, by induction over the edges listed. -/
theorem coreRunIsTheClockedRun : Obligations.CoreRunIsTheClockedRun :=
  run_core_setEdges

/-- Settles O25: in SEEDW's row the data word is the operand, and in every other row it is not read. -/
theorem decodeReadsTheCodeAlone : Obligations.DecodeReadsTheCodeAlone := by
  intro code d d'
  by_cases h : opField code = 0x3
  · exact .inl ⟨_, decode_of_opField_eq_three h d, .inr ⟨_, rfl, decode_of_opField_eq_three h d'⟩⟩
  · rw [decode_data_irrelevant h d d']
    cases hd : decode ⟨code, d'⟩ with
    | ok i => exact .inl ⟨i, rfl, .inl rfl⟩
    | error r => rw [reject_of_decode_error hd]; exact .inr ⟨rfl, rfl⟩

/-- Settles O28: a number in range is the one its field carries. -/
theorem wellFormedLinesAssembleToTheirCommand : Obligations.WellFormedLinesAssembleToTheirCommand := by
  refine ⟨fun n hn => ⟨_, rfl, ?_, rfl⟩, fun n v hnv => ⟨_, rfl, ?_, ?_⟩, fun n v hnv => ⟨_, rfl, ?_, ?_⟩,
    rfl, rfl, rfl, rfl⟩
  · have hn : n < 16 := of_decide_eq_true hn
    rw [toNat_code_getw, toNat_ofNat_index hn]
  all_goals simp only [AsmLine.wellFormed, indexOk, codeOk, valueOk, Bool.and_eq_true, decide_eq_true_eq] at hnv
  · rw [toNat_code_seedw, toNat_ofNat_index hnv.1]
  · exact Nat.mod_eq_of_lt hnv.2
  · exact Nat.mod_eq_of_lt hnv.1
  · exact Nat.mod_eq_of_lt hnv.2

/-- Settles O34: the two blocks agree on all that NEXT reads, and on all that COMMIT reads if there is one. -/
theorem drawsDependOnWordsAndPositionAlone : Obligations.DrawsDependOnWordsAndPositionAlone := by
  intro cs s t hs ht hS hpos hcs
  have hsame : s.SameEngine (s.Stage = t.Stage ∧ s.mask = t.mask) t := ⟨⟨hs, ht⟩, hS, hpos, id⟩
  obtain ⟨s', t', rs, rs', hs', ht', hend, hdraws⟩ :=
    runCommands_sameEngine cs hsame fun c hc => hcs.imp_right (· c hc)
  exact ⟨s', t', rs, rs', hs', ht', hend.S, hend.pos, hdraws⟩

/-- Settles O42: the seed staged at all indices and committed. -/
theorem stagingOrderDoesNotMatter : Obligations.StagingOrderDoesNotMatter := by
  intro w order s horder
  obtain ⟨t, ht, hload⟩ := runCommands_seed w horder s
  simp only [encode_seedw_eq] at ht
  exact ⟨t, ht, hload.S, hload.pos, hload.seeded, hload.mask⟩

/-- Settles O46: no command reads the response register, so both blocks reach the same state. -/
theorem errorsAreNotSticky : Obligations.ErrorsAreNotSticky := by
  intro c s u h
  obtain ⟨t, ht, hpending, _⟩ := perform_next c s
  exact ⟨t, t, ht, (perform_eq_of_sameButResponse h c).symm.trans ht, .refl t, hpending, hpending, rfl, rfl⟩

/-- Settles O49: whatever the first reset edge finds, the last one leaves the reset values. -/
theorem resetEdgesGiveTheResetValues : Obligations.ResetEdgesGiveTheResetValues := by
  refine ⟨fun e es s hr hes => ?_, fun e s hr => ?_⟩
  · obtain ⟨u, evs, hrun⟩ := runEdges_of_rst es s hes
    refine ⟨_, _, runEdges_cons (clockEdge_of_rst hr s) hrun, rfl, rfl, rfl, rfl, rfl, fun i => ⟨rfl, ?_⟩⟩
    exact if_neg (Bool.eq_false_iff.1 (State.maskBit_of_mask_eq_zero u.resetEdge_mask i))
  · have hvalid : rspValid e s = false := by simp [rspValid, hr]
    exact ⟨cmdReady_of_rst_or_pending (.inl hr), hvalid, by simp [rspPort, hvalid]⟩

/-- Settles O8: the flags are clear, so no element behind them holds a value and the port is open. -/
theorem resetStateHasTheSpecsValues : Obligations.ResetStateHasTheSpecsValues := by
  refine ⟨rfl, rfl, rfl, rfl, rfl, fun i => ⟨rfl, ?_⟩, fun e => ⟨?_, ?_⟩⟩
  · exact if_neg (Bool.eq_false_iff.1 (State.maskBit_of_mask_eq_zero rfl i))
  · exact (rspPort_eq_heldResponse e _).trans (ite_self none)
  · simp [cmdReady, State.reset]

/-- Settles O13: a step is its edge, the next one listed or an idle one. -/
theorem stepUsesUpOneEdge : Obligations.StepUsesUpOneEdge := by
  refine ⟨fun s e rest h => ?_, fun s h => ?_⟩
  · obtain ⟨t, ht, hedges⟩ := clockEdge_next e (s.setEdges rest)
    exact ⟨t, (step_cons h).trans ht, hedges, ht⟩
  · have hself : s.setEdges [] = s := h ▸ s.setEdges_self
    exact ⟨_, (step_nil h).trans (hself.symm ▸ clockEdge_idleEdge s), s.passCycle_sameButResponse, by simp, by simp,
      by simp⟩

/-- Settles O14: the bits placed are those of the command, and the step after an offer performs it. -/
theorem placedCommandIsTheNextPerformed : Obligations.PlacedCommandIsTheNextPerformed := by
  intro s c
  rw [State.withFetchWord, commandOfBits_of_command]
  exact step_offer s c

/-- Settles O26: each word has the code of its row. -/
theorem wordsOfTheOpcodeMapDecode : Obligations.WordsOfTheOpcodeMapDecode := fun d =>
  ⟨decode_nopCode d, decode_nextCode d, decode_getwCode 15 d, decode_seedwCode 3 d, decode_commitCode d,
    decode_statusCode d⟩

/-- Settles O53: the position is 0 and nothing is pending. -/
theorem invariantHoldsAfterReset : Obligations.InvariantHoldsAfterReset :=
  ⟨fun _ => rfl, nofun, iff_of_false nofun nofun⟩

end Sys2Proof.Proofs
end
